-- ==== Sys2Proof/Word.lean ====
section
/-! DEFINITION. The word types of the register port and of the waveform table (spec/00_scope.md R9, R10). -/

namespace Sys2Proof

/-- A word of the register port and of a voice field: 32 bits, bit 0 the least significant (R9). -/
abbrev Word := BitVec 32

/-- One entry of the waveform table, a signed 16-bit number (R33). -/
abbrev Entry := BitVec 16

/-- One byte of a byte-addressed bus that carries the register port (R53). -/
abbrev Byte := BitVec 8

end Sys2Proof
end

