-- ==== Sys2Proof/Config.lean ====
section
/-! DEFINITION. The parameters of the hardware (spec/00_scope.md R2, R7, R10). The two parameters that R7
calls model arguments, N_VOICES and the contents of WAVE, travel in the state (log 1): what stands here is the
value this hardware takes for them by default. No parameter of this spec is a free value. -/

namespace Sys2Proof.Config

/-- N_VOICES by default (R7). -/
def nVoices : Nat := 10

/-- The largest N_VOICES that R7 admits; the smallest is 1. -/
def maxVoices : Nat := 32

/-- MAX_LEVEL, the peak of an envelope level (R7). -/
def maxLevel : Nat := 0xFFFFFFFF

/-- SUSTAIN_ZERO, the level at or below which a sustain level is "effectively zero" (R7, R94). -/
def sustainZero : Nat := 0

/-- GAIN_SHIFT, by which a level is shifted right to a gain (R7, R99). -/
def gainShift : Nat := 16

/-- INT32_MAX (R10). -/
def int32Max : Int := 2147483647

/-- INT32_MIN (R10). -/
def int32Min : Int := -2147483648

/-- The word in RESULT with every response but OK (R121). -/
def noResult : Word := 0xFFFFFFFF#32

/-- The identifier string a model of `n` voices may carry (R2). -/
def identifier (n : Nat) : String := "synth-voicebank/v7-spec1/N=" ++ toString n

end Sys2Proof.Config
end

