-- ==== Sys2Proof/Syntax.lean ====
section
/-! DEFINITION. The instructions of the voice bank: the five commands a host writes to CMD, one constructor
per row of spec/opcode_table.json (spec/30_encoding.md R72, spec/00_scope.md R15). -/

namespace Sys2Proof

/-- A command. The one operand in a command word is the voice index of REL, RECLAIM and ISDONE, eight bits
read as an unsigned number (R71, R73). -/
inductive Instr where
  /-- ALLOC: give the least free voice the note in the operand registers (R122). -/
  | alloc
  /-- REL idx: early note-off of voice idx (R124). -/
  | rel (idx : BitVec 8)
  /-- RECLAIM idx: bring HAI down after voice idx became DONE (R125). -/
  | reclaim (idx : BitVec 8)
  /-- MIX: one output sample (R127). -/
  | mix
  /-- ISDONE idx: is voice idx free? (R128). -/
  | isdone (idx : BitVec 8)
  deriving DecidableEq, Repr

end Sys2Proof
end

