-- ==== Sys2Proof/WellFormed.lean ====
section
/-! DEFINITION. When a command is well formed for a bank of `n` voices: its voice index, where it has one,
names a voice (spec/30_encoding.md R73). A command that is not well formed has a meaning all the same, the
response ERR_INDEX (R70). -/

namespace Sys2Proof

/-- The voice index in the command word, for the three commands that have one (R71). -/
def Instr.index? : Instr → Option (BitVec 8)
  | .alloc => none
  | .rel idx => some idx
  | .reclaim idx => some idx
  | .mix => none
  | .isdone idx => some idx

/-- The command names no voice outside a bank of `n` voices (R73: legal when `idx < N_VOICES`). -/
def Instr.wellFormed (n : Nat) (i : Instr) : Bool :=
  match i.index? with
  | none => true
  | some idx => decide (idx.toNat < n)

/-- The number of voices is one that R7 admits. -/
def legalBankSize (n : Nat) : Bool := decide (1 ≤ n) && decide (n ≤ Config.maxVoices)

end Sys2Proof
end

