-- ==== Sys2Proof/Decode.lean ====
section
/-! DEFINITION. Decoding and encoding of the command word (spec/30_encoding.md R70 to R74). Decoding is total
on the 2^32 words and reads nothing but the word (R76); the range check of the index, which needs N_VOICES,
stands in the meanings (log 15). -/

namespace Sys2Proof

/-- Why a word is illegal (R74): the first failing check in the order of R70. Each is answered with
ERR_OPCODE. -/
inductive Reject where
  /-- Bits [31:16] are not 0. -/
  | reservedBits
  /-- The opcode is 0x00 or 0x06 to 0xFF. -/
  | reservedOpcode
  /-- ALLOC or MIX with an index field that is not 0. -/
  | indexNotZero
  deriving DecidableEq, Repr

/-- What decoding answers: a command, or the name of the defect. -/
inductive Decoded where
  | instr (i : Instr)
  | illegal (why : Reject)
  deriving DecidableEq, Repr

/-- `op`, bits [7:0] of a command word (R71). -/
def opField (w : Word) : BitVec 8 := w.extractLsb' 0 8

/-- `idx`, bits [15:8] of a command word (R71). -/
def idxField (w : Word) : BitVec 8 := w.extractLsb' 8 8

/-- `rsv`, bits [31:16] of a command word (R71). -/
def rsvField (w : Word) : BitVec 16 := w.extractLsb' 16 16

/-- The reader of one command word: the first three checks of R70, in its order, then the opcode map of R72. -/
def decode (w : Word) : Decoded :=
  if rsvField w ≠ 0#16 then .illegal .reservedBits
  else if opField w = 1#8 then
    if idxField w = 0#8 then .instr .alloc else .illegal .indexNotZero
  else if opField w = 2#8 then .instr (.rel (idxField w))
  else if opField w = 3#8 then .instr (.reclaim (idxField w))
  else if opField w = 4#8 then
    if idxField w = 0#8 then .instr .mix else .illegal .indexNotZero
  else if opField w = 5#8 then .instr (.isdone (idxField w))
  else .illegal .reservedOpcode

/-- The opcode of a command (R72). -/
def opcode : Instr → BitVec 8
  | .alloc => 1#8
  | .rel _ => 2#8
  | .reclaim _ => 3#8
  | .mix => 4#8
  | .isdone _ => 5#8

/-- A command word from its two fields, the reserved bits 0 (R71). -/
def commandWord (op idx : BitVec 8) : Word := (0#16 ++ idx) ++ op

/-- The command word of a command (R72, R77). -/
def encode (i : Instr) : Word :=
  match i with
  | .alloc => commandWord (opcode .alloc) 0#8
  | .rel idx => commandWord (opcode (.rel idx)) idx
  | .reclaim idx => commandWord (opcode (.reclaim idx)) idx
  | .mix => commandWord (opcode .mix) 0#8
  | .isdone idx => commandWord (opcode (.isdone idx)) idx

/-- The mask of a command's row in the opcode map (R72): the bits of the word that the row fixes. -/
def rowMask : Instr → Word
  | .alloc => 0xFFFFFFFF#32
  | .rel _ => 0xFFFF00FF#32
  | .reclaim _ => 0xFFFF00FF#32
  | .mix => 0xFFFFFFFF#32
  | .isdone _ => 0xFFFF00FF#32

/-- The match value of a command's row in the opcode map (R72). -/
def rowMatch : Instr → Word
  | .alloc => 0x00000001#32
  | .rel _ => 0x00000002#32
  | .reclaim _ => 0x00000003#32
  | .mix => 0x00000004#32
  | .isdone _ => 0x00000005#32

/-- The command word whose low `nbits` bits are `w` and whose other bits are 0. -/
def tableWord (nbits w : Nat) : Word := BitVec.ofNat 32 (w % 2 ^ nbits)

/-- What the decoder reads from a row of the opcode table given as a number. -/
def decodeTableWord (nbits w : Nat) : Option Instr :=
  match decode (tableWord nbits w) with
  | .instr i => some i
  | .illegal _ => none

/-! Every command's decoding, by a word written out bit by bit from R71 and R72: reserved bits, index, opcode. -/

theorem decode_alloc_word : decode 0b0000000000000000_00000000_00000001#32 = .instr .alloc := by decide
theorem decode_rel_word : decode 0b0000000000000000_00000011_00000010#32 = .instr (.rel 3#8) := by decide
theorem decode_reclaim_word : decode 0b0000000000000000_00001001_00000011#32 = .instr (.reclaim 9#8) := by decide
theorem decode_mix_word : decode 0b0000000000000000_00000000_00000100#32 = .instr .mix := by decide
theorem decode_isdone_word : decode 0b0000000000000000_00000111_00000101#32 = .instr (.isdone 7#8) := by decide

end Sys2Proof
end

