-- ==== Sys2Proof/Machine/State.lean ====
section
/-! DEFINITION. The state of the voice bank, all of it as plain data (spec/10_state.md R20 to R35), what a host
can ask of it and observe, and the state after power-on reset. -/

namespace Sys2Proof.Machine

/-- The five envelope states (R28): attack, decay, sustain, release, and DONE, the free state. -/
inductive EnvelopeState where
  | rising
  | falling
  | sustain
  | released
  | done
  deriving DecidableEq, Repr

/-- One voice: the nine fields of R27, in its order and under its names. -/
structure Voice where
  /-- Phase accumulator: bits [31:24] are the table index, bits [23:0] a fraction of an entry. -/
  phase : Word
  /-- Phase increment per sample. -/
  stepSize : Word
  /-- Envelope level, unsigned; 0 is silence. -/
  level : Word
  /-- Where in its life the note is. -/
  envelopeState : EnvelopeState
  /-- Samples until the nominal duration has elapsed, read as a signed number. -/
  cyclesRemaining : Word
  /-- Per-sample increment of the level in RISING. -/
  attackRate : Word
  /-- Per-sample decrement of the level in FALLING. -/
  decayRate : Word
  /-- Target of FALLING, level held in SUSTAIN. -/
  sustainLevel : Word
  /-- Per-sample decrement of the level in RELEASED. -/
  releaseRate : Word
  deriving DecidableEq, Repr

/-- A voice as power-on reset leaves it: DONE, every other field 0 (R35). -/
def Voice.free : Voice where
  phase := 0#32
  stepSize := 0#32
  level := 0#32
  envelopeState := .done
  cyclesRemaining := 0#32
  attackRate := 0#32
  decayRate := 0#32
  sustainLevel := 0#32
  releaseRate := 0#32

/-- The six operand words of an ALLOC, in the order of the registers FREQ to RLS (R23, R91). -/
structure Note where
  freq : Word
  dur : Word
  atk : Word
  dcy : Word
  sus : Word
  rls : Word
  deriving DecidableEq, Repr

/-- What the outside world can do to the block: the host's two primitives by register number (R65, R66), the
same through a byte-addressed bus (R53), and power-on reset by the platform (R190). -/
inductive HostEvent where
  /-- RegRead(reg). -/
  | read (reg : Nat)
  /-- RegWrite(reg, w). -/
  | write (reg : Nat) (w : Word)
  /-- A bus read of `width` bytes at byte offset `offset` from the port's base. -/
  | busRead (offset width : Nat)
  /-- A bus write of these bytes, the first at byte offset `offset` from the port's base. -/
  | busWrite (offset : Nat) (bytes : List Byte)
  /-- Power-on reset, asserted and released between two accesses. -/
  | powerOnReset
  deriving DecidableEq, Repr

/-- What the host observes (R13): the response of a command, and the value of a read. -/
inductive Observation where
  /-- RCODE and RESULT as a command left them. -/
  | response (rcode result : Word)
  /-- The word a RegRead returned. -/
  | value (w : Word)
  /-- The bytes a bus read returned, the lowest offset first. -/
  | bytes (bs : List Byte)
  deriving DecidableEq, Repr

/-- The whole state of the block (R20), and two fields of the model's own, `inputs` and `trace`. STATUS and
ACTIVE hold no state (R26): they are computed at the read. -/
structure State where
  /-- Register 0, CMD: the last command word written (R24). -/
  cmd : Word
  /-- Register 1, RESULT: the result word of the last command (R25). -/
  result : Word
  /-- Register 2, RCODE: the response code of the last command (R25). -/
  rcode : Word
  /-- Register 5, FREQ: step size of the next ALLOC (R22, R23). -/
  freq : Word
  /-- Register 6, DUR: duration in samples of the next ALLOC. -/
  dur : Word
  /-- Register 7, ATK: attack rate of the next ALLOC. -/
  atk : Word
  /-- Register 8, DCY: decay rate of the next ALLOC. -/
  dcy : Word
  /-- Register 9, SUS: sustain level of the next ALLOC. -/
  sus : Word
  /-- Register 10, RLS: release rate of the next ALLOC. -/
  rls : Word
  /-- The pool register HAI, the highest active index, -1 for NONE (R29). -/
  hai : Int
  /-- The voice register file; its length is N_VOICES (R27, log 1). -/
  voices : List Voice
  /-- The waveform table, which no operation writes (R20, R33, log 1). -/
  wave : Vector Entry 256
  /-- The model's own: what the host will still do, in its order (log 2). -/
  inputs : List HostEvent
  /-- The model's own: what the host has observed, the newest first (R13, log 3). -/
  trace : List Observation
  deriving DecidableEq, Repr

/-- Why the machine stops with a fault: never. The block raises no exception and takes no trap (R170, R175),
so nothing raises one and there is no constructor. Safe: no fault of the hardware is left out (log 8). -/
inductive Fault where
  deriving DecidableEq, Repr

/-- Why a step has no meaning. -/
inductive Refusal where
  /-- Raised by no arm of exec in this model: every command has its meaning. Safe: it would stop. -/
  | notModelled (mnemonic : String)
  /-- Raised by a bus access whose width is not 32 bits or whose offset is no multiple of 4: the spec refuses
  it, gives it no meaning and leaves the state unchanged (R54, 93_implementation_defined.md U8). Safe. -/
  | undefinedAccess (offset width : Nat)
  deriving DecidableEq, Repr

/-- The state after power-on reset of a bank of `n` voices with the table `wave` (R35, R190), with no host
access to come and none observed. -/
def State.powerOn (n : Nat) (wave : Vector Entry 256) : State where
  cmd := 0#32
  result := 0#32
  rcode := 0#32
  freq := 0#32
  dur := 0#32
  atk := 0#32
  dcy := 0#32
  sus := 0#32
  rls := 0#32
  hai := -1
  voices := List.replicate n Voice.free
  wave := wave
  inputs := []
  trace := []

/-- The machine right after reset, with the default parameters of R7 (R35). -/
def State.reset : State := State.powerOn Config.nVoices defaultWave

end Sys2Proof.Machine
end

