-- ==== Sys2Proof/Machine/Flags.lean ====
section
/-! DEFINITION. Boundary conditions of the envelope and of the mixer, and the number conversions they need. The
block stores no flag (spec/10_state.md R36): a carry, a borrow or an overflow is computed here and consumed by
the operation that asks for it (spec/40_voice.md R101, spec/41_pool_commands.md R126). -/

namespace Sys2Proof.Machine

/-- `toU32`: the two's complement word of an integer (R10). -/
def toU32 (k : Int) : Word := BitVec.ofInt 32 k

/-- Carry out of the attack addition: the exact sum exceeds MAX_LEVEL (R93, R101). A sum that is exactly
MAX_LEVEL is none. -/
def attackCarry (level rate : Word) : Bool := decide (Config.maxLevel < level.toNat + rate.toNat)

/-- The decay step reaches or passes the sustain level: a borrow, or a difference at or below it (R94). -/
def decayReached (level rate target : Word) : Bool :=
  decide (level.toNat < rate.toNat) || decide (level.toNat - rate.toNat ≤ target.toNat)

/-- The release step reaches zero or borrows (R96). -/
def releaseReached (level rate : Word) : Bool := decide (level.toNat ≤ rate.toNat)

/-- The nominal duration has elapsed: the counter, read as a signed number, is at most 0 (R95, R101). -/
def durationElapsed (counter : Word) : Bool := decide (counter.toInt ≤ 0)

/-- The counter decrement, saturating at -2^31 (R99 step 5, R101). -/
def countDown (counter : Word) : Word := toU32 (max (counter.toInt - 1) Config.int32Min)

/-- `satadd32`: the exact sum, clamped to the extreme whose sign the operands have (R126). -/
def satadd32 (a b : Int) : Int :=
  if Config.int32Max < a + b then Config.int32Max
  else if a + b < Config.int32Min then Config.int32Min
  else a + b

end Sys2Proof.Machine
end

