-- ==== Sys2Proof/Machine/Voice.lean ====
section
/-! DEFINITION. The micro-operations of one voice (spec/40_voice.md). They have no encoding and are run only by
the commands (R90); none touches another voice, HAI or a host register, so each is a function of the voice (and
of the table, for the sample). -/

namespace Sys2Proof.Machine

/-- The three-bit code the hardware stores for a state (R28). No register shows it. -/
def envelopeCode : EnvelopeState → BitVec 3
  | .rising => 0#3
  | .falling => 1#3
  | .sustain => 2#3
  | .released => 3#3
  | .done => 4#3

/-- V.isDone (R98). -/
def Voice.isDone (v : Voice) : Bool := decide (v.envelopeState = .done)

/-- V.reset (R91): all nine fields are written, so nothing of the voice before survives. -/
def Voice.reset (n : Note) : Voice where
  phase := 0#32
  stepSize := n.freq
  level := 0#32
  envelopeState := .rising
  cyclesRemaining := n.dur
  attackRate := n.atk
  decayRate := n.dcy
  sustainLevel := n.sus
  releaseRate := n.rls

/-- V.release (R92): RELEASED whatever the state was, no other field written. -/
def Voice.release (v : Voice) : Voice := { v with envelopeState := .released }

/-- Where FALLING leads when it reaches the sustain level: DONE if that level is (effectively) zero (R94). -/
def afterDecay (target : Word) : EnvelopeState :=
  if target.toNat ≤ Config.sustainZero then .done else .sustain

/-- V.envStep: the arm of the state the voice is in when the step begins, and only that arm (R93 to R97, R100). -/
def Voice.envStep (v : Voice) : Voice :=
  match v.envelopeState with
  | .rising =>
    if attackCarry v.level v.attackRate then
      { v with level := BitVec.ofNat 32 Config.maxLevel, envelopeState := .falling }
    else { v with level := v.level + v.attackRate }
  | .falling =>
    if decayReached v.level v.decayRate v.sustainLevel then
      { v with level := v.sustainLevel, envelopeState := afterDecay v.sustainLevel }
    else { v with level := v.level - v.decayRate }
  | .sustain =>
    if durationElapsed v.cyclesRemaining then { v with envelopeState := .released } else v
  | .released =>
    if releaseReached v.level v.releaseRate then { v with level := 0#32, envelopeState := .done }
    else { v with level := v.level - v.releaseRate }
  | .done => { v with level := 0#32 }

/-- The table index, bits [31:24] of a phase (R27, R99 step 3). -/
def tableIndex (phase : Word) : BitVec 8 := phase.extractLsb' 24 8

/-- `WAVE[k]` as the word in the table (R51). -/
def waveEntry (wave : Vector Entry 256) (k : BitVec 8) : Entry := wave[k.toNat]'k.isLt

/-- The gain, the level shifted right by GAIN_SHIFT: 0 to 65535 (R99 step 4, R101). -/
def gain (level : Word) : Nat := (level >>> Config.gainShift).toNat

/-- The sample of a voice with this phase and level: the exact signed product of entry and gain (R99, R101). -/
def sampleAt (wave : Vector Entry 256) (phase level : Word) : Int :=
  (waveEntry wave (tableIndex phase)).toInt * (gain level : Int)

/-- What V.nextSample leaves of a voice (R99): nothing is written on a DONE voice; on any other the envelope
steps first, then the phase advances and the counter counts (90_conflicts.md C1, C5). -/
def Voice.advance (v : Voice) : Voice :=
  if v.isDone then v
  else
    let e := v.envStep
    { e with phase := e.phase + e.stepSize, cyclesRemaining := countDown e.cyclesRemaining }

/-- What V.nextSample returns (R99): 0 for a voice that is DONE on entry; for any other the sample at the phase
and the level the same call leaves. -/
def Voice.sample (wave : Vector Entry 256) (v : Voice) : Int :=
  if v.isDone then 0 else sampleAt wave v.advance.phase v.advance.level

/-- The voice after `n` calls of V.nextSample. -/
def Voice.after : Nat → Voice → Voice
  | 0, v => v
  | n + 1, v => Voice.after n v.advance

end Sys2Proof.Machine
end

