-- ==== Sys2Proof/Machine/Ops.lean ====
section
/-! DEFINITION. The shared operations of the commands over the pool and the response registers
(spec/41_pool_commands.md). There is no exception to take and none to return from (spec/60_exceptions.md R170,
R175, R176): what ends every command, legal or not, is `respond`. -/

namespace Sys2Proof.Machine

/-- The four response codes (R171). -/
inductive ResponseCode where
  | ok
  | failure
  | errIndex
  | errOpcode
  deriving DecidableEq, Repr

/-- The word a response code is in RCODE (R171). -/
def codeWord : ResponseCode → Word
  | .ok => 0#32
  | .failure => 1#32
  | .errIndex => 2#32
  | .errOpcode => 3#32

/-- `respond(code, result)` (R121). -/
def State.respond (s : State) (code : ResponseCode) (result : Word) : State :=
  { s with rcode := codeWord code, result := result }

/-- A response other than OK: RESULT is 0xFFFF_FFFF and nothing else changes (R121, R172, R175). -/
def State.fail (s : State) (code : ResponseCode) : State := s.respond code Config.noResult

/-- N_VOICES (R7): the number of rows of the voice register file. -/
def State.nVoices (s : State) : Nat := s.voices.length

/-- `v[i]`. Beyond the file, where the spec has no voice, it reads as a free voice (log 16). -/
def State.voice (s : State) (i : Nat) : Voice := s.voices.getD i Voice.free

/-- `v[i] <- v`. Beyond the file it writes nothing (log 16). -/
def State.setVoice (s : State) (i : Nat) (v : Voice) : State := { s with voices := s.voices.set i v }

/-- `HAI <- h`. -/
def State.setHai (s : State) (h : Int) : State := { s with hai := h }

/-- `HAI <- max(HAI, i)`, NONE being below every index (R29, R122, R124). -/
def State.raiseHai (s : State) (i : Nat) : State := s.setHai (max s.hai i)

/-- The least index with a DONE voice, the ascending scan of ALLOC (R122). -/
def State.firstFree (s : State) : Option Nat := s.voices.findIdx? Voice.isDone

/-- The downward scan of RECLAIM over the indices below `k`: the greatest with a voice that is not DONE, or -1
(R125). -/
def State.scanDown (s : State) : Nat → Int
  | 0 => -1
  | k + 1 => if (s.voice k).isDone then s.scanDown k else (k : Int)

/-- The voices after one V.nextSample on each of the first `k`, the others untouched (R127). -/
def advanceVoices : Nat → List Voice → List Voice
  | 0, vs => vs
  | _ + 1, [] => []
  | k + 1, v :: vs => v.advance :: advanceVoices k vs

/-- The accumulator of MIX after the first `k` voices were added in ascending order, saturating at each
addition, to `acc` (R126, R127). -/
def mixVoices (wave : Vector Entry 256) : Nat → List Voice → Int → Int
  | 0, _, acc => acc
  | _ + 1, [], acc => acc
  | k + 1, v :: vs, acc => mixVoices wave k vs (satadd32 acc (v.sample wave))

/-- `CMD <- w` (R24). -/
def State.setCmd (s : State) (w : Word) : State := { s with cmd := w }

/-- The host has these accesses still to make (log 2). -/
def State.setInputs (s : State) (es : List HostEvent) : State := { s with inputs := es }

/-- The host observes something (R13, log 3). -/
def State.observe (s : State) (o : Observation) : State := { s with trace := o :: s.trace }

/-- Power-on reset of this bank (R190): the state of R35, the parameters and the model's own two fields as they
were (log 10). -/
def State.powerCycle (s : State) : State :=
  { State.powerOn s.nVoices s.wave with inputs := s.inputs, trace := s.trace }

/-- How many voices MIX visits: HAI + 1, none when HAI is NONE (R127, R133). -/
def State.visited (s : State) : Nat := (s.hai + 1).toNat

/-- One V.nextSample on every voice MIX visits (R127). -/
def State.advanceVisited (s : State) : State := { s with voices := advanceVoices s.visited s.voices }

end Sys2Proof.Machine
end

