-- ==== Sys2Proof/Machine/Operands.lean ====
section
/-! DEFINITION. Where a command takes its operands from: the index field of the word, checked against N_VOICES
(spec/30_encoding.md R70, R73), and the six operand registers (spec/10_state.md R23). -/

namespace Sys2Proof.Machine

/-- The six operand registers, as ALLOC reads them (R23, R91, R122). -/
def State.note (s : State) : Note where
  freq := s.freq
  dur := s.dur
  atk := s.atk
  dcy := s.dcy
  sus := s.sus
  rls := s.rls

/-- The index operand of a command: with `idx < N_VOICES` the command goes on with the voice number, otherwise
it ends with ERR_INDEX and no other change (R70, R73, R171). -/
def withIndex (idx : BitVec 8) (s : State) (go : Nat → State) : Host.Outcome State Fault Refusal :=
  if idx.toNat < s.nVoices then .next (go idx.toNat) else .next (s.fail .errIndex)

/-- Read of an operand register, numbers 5 to 10 (R22). Any other number reads 0 here. -/
def State.operand (s : State) : Nat → Word
  | 5 => s.freq
  | 6 => s.dur
  | 7 => s.atk
  | 8 => s.dcy
  | 9 => s.sus
  | 10 => s.rls
  | _ => 0#32

/-- Write of an operand register, numbers 5 to 10 (R22, R66). Any other number is ignored. -/
def State.setOperand (s : State) (n : Nat) (w : Word) : State :=
  match n with
  | 5 => { s with freq := w }
  | 6 => { s with dur := w }
  | 7 => { s with atk := w }
  | 8 => { s with dcy := w }
  | 9 => { s with sus := w }
  | 10 => { s with rls := w }
  | _ => s

end Sys2Proof.Machine
end

