-- ==== Sys2Proof/Machine/Pool.lean ====
section
/-! DEFINITION. The meanings of the five commands (spec/41_pool_commands.md). None has a fault or a refusal on
any path: each ends in exactly one response (R121). -/

namespace Sys2Proof.Machine

/-- ALLOC on voice `i`: the voice is reset with the note in the operand registers, HAI raised to it (R122). -/
def State.allocate (s : State) (i : Nat) : State :=
  ((s.setVoice i (Voice.reset s.note)).raiseHai i).respond .ok (BitVec.ofNat 32 i)

/-- ALLOC (R122): the least free voice, or FAILURE when there is none. It validates nothing (R123). -/
def execAlloc (s : State) : Host.Outcome State Fault Refusal :=
  match s.firstFree with
  | none => .next (s.fail .failure)
  | some i => .next (s.allocate i)

/-- REL idx (R124): the voice to RELEASED, HAI raised to it (90_conflicts.md C2). -/
def execRel (idx : BitVec 8) (s : State) : Host.Outcome State Fault Refusal :=
  withIndex idx s fun i => ((s.setVoice i (s.voice i).release).raiseHai i).respond .ok 0#32

/-- RECLAIM idx (R125): with `idx = HAI`, HAI goes down to the next voice that is not DONE, the scan starting
at `idx` itself; otherwise HAI stays. No voice is written. -/
def execReclaim (idx : BitVec 8) (s : State) : Host.Outcome State Fault Refusal :=
  withIndex idx s fun i => (if (i : Int) = s.hai then s.setHai (s.scanDown (i + 1)) else s).respond .ok 0#32

/-- MIX (R127): one sample of every voice up to HAI, summed in ascending order. HAI is not written. -/
def execMix (s : State) : Host.Outcome State Fault Refusal :=
  .next (s.advanceVisited.respond .ok (toU32 (mixVoices s.wave s.visited s.voices 0)))

/-- ISDONE idx (R128). -/
def execIsdone (idx : BitVec 8) (s : State) : Host.Outcome State Fault Refusal :=
  withIndex idx s fun i => s.respond .ok (if (s.voice i).isDone then 1#32 else 0#32)

end Sys2Proof.Machine
end

