-- ==== Sys2Proof/Machine/Dispatch.lean ====
section
/-! DEFINITION. exec: one arm per command, each one call of its meaning. -/

namespace Sys2Proof.Machine

def exec (i : Instr) (s : State) : Host.Outcome State Fault Refusal :=
  match i with
  | .alloc => Sys2Proof.Machine.execAlloc s
  | .rel idx => Sys2Proof.Machine.execRel idx s
  | .reclaim idx => Sys2Proof.Machine.execReclaim idx s
  | .mix => Sys2Proof.Machine.execMix s
  | .isdone idx => Sys2Proof.Machine.execIsdone idx s

end Sys2Proof.Machine
end

