-- ==== Sys2Proof/Machine/Port.lean ====
section
/-! DEFINITION. The register port: the host's two primitives, the decode and dispatch of a command word, the
byte-addressed form of the port, and what one host event does (spec/20_memory.md, spec/30_encoding.md R70). -/

namespace Sys2Proof.Machine

/-- The step that follows another: `f` runs on its next state; a fault or a refusal ends both. -/
def andThen {σ τ φ ρ : Type} (o : Host.Outcome σ φ ρ) (f : σ → Host.Outcome τ φ ρ) : Host.Outcome τ φ ρ :=
  match o with
  | .next s => f s
  | .fault r => .fault r
  | .refused r => .refused r

/-- `Execute(w)` (R70): an illegal word is answered with ERR_OPCODE and changes nothing else (R74); a legal one
runs its command. -/
def execute (w : Word) (s : State) : Host.Outcome State Fault Refusal :=
  match decode w with
  | .illegal _ => .next (s.fail .errOpcode)
  | .instr i => exec i s

/-- The HAI field of STATUS: HAI, or 0xFF when HAI is NONE (R26, R65). -/
def haiField (h : Int) : Nat := if h = -1 then 0xFF else h.toNat

/-- STATUS, a view (R26, R65). -/
def State.status (s : State) : Word := BitVec.ofNat 32 ((s.nVoices <<< 8) ||| haiField s.hai)

/-- The sum of `2^i` over the voices that are not DONE, the first voice of the list being voice `i` (R65). -/
def activeSum : Nat → List Voice → Nat
  | _, [] => 0
  | i, v :: vs => (if v.isDone then 0 else 2 ^ i) + activeSum (i + 1) vs

/-- ACTIVE, a view (R26, R65). -/
def State.active (s : State) : Word := BitVec.ofNat 32 (activeSum 0 s.voices)

/-- `RegRead(n)` (R65): it writes nothing; a reserved number reads 0 (R56). -/
def State.regRead (s : State) (n : Nat) : Word :=
  match n with
  | 0 => s.cmd
  | 1 => s.result
  | 2 => s.rcode
  | 3 => s.status
  | 4 => s.active
  | n => s.operand n

/-- `RegWrite(n, w)` (R66): register 0 takes the word and then executes it; 5 to 10 take it; writes to the
read-only registers and to reserved numbers are ignored (R25, R26, R56). -/
def regWrite (n : Nat) (w : Word) (s : State) : Host.Outcome State Fault Refusal :=
  match n with
  | 0 => execute w (s.setCmd w)
  | n => .next (s.setOperand n w)

/-- The host observes the response of the command that has just ended (R13). -/
def State.observeResponse (s : State) : State := s.observe (.response s.rcode s.result)

/-- A RegWrite with what the host observes of it: the response, when it wrote CMD (R13). -/
def hostWrite (n : Nat) (w : Word) (s : State) : Host.Outcome State Fault Refusal :=
  andThen (regWrite n w s) fun t => .next (if n = 0 then t.observeResponse else t)

/-- The four bytes of a word, bits [7:0] first (R53: little-endian). -/
def wordBytes (w : Word) : List Byte :=
  [w.extractLsb' 0 8, w.extractLsb' 8 8, w.extractLsb' 16 8, w.extractLsb' 24 8]

/-- The word of four bytes, the first bits [7:0] (R53). -/
def bytesWord : List Byte → Word
  | [b0, b1, b2, b3] => ((b3 ++ b2) ++ b1) ++ b0
  | _ => 0#32

/-- A bus access that is one to a whole register: 4 bytes at a multiple of 4 (R54; offsets above 40 reach the
reserved numbers of R56, log 7). -/
def wholeRegister (offset width : Nat) : Bool := decide (width = 4) && decide (offset % 4 = 0)

/-- What one host event does. A command runs wholly inside the write that starts it (R55, R120). -/
def hostAccess (e : HostEvent) (s : State) : Host.Outcome State Fault Refusal :=
  match e with
  | .read n => .next (s.observe (.value (s.regRead n)))
  | .write n w => hostWrite n w s
  | .busRead offset width =>
    if wholeRegister offset width then .next (s.observe (.bytes (wordBytes (s.regRead (offset / 4)))))
    else .refused (.undefinedAccess offset width)
  | .busWrite offset bytes =>
    if wholeRegister offset bytes.length then hostWrite (offset / 4) (bytesWord bytes) s
    else .refused (.undefinedAccess offset bytes.length)
  | .powerOnReset => .next s.powerCycle

/-- Serve the host's next access; with none, hold the state (R12, R59, R183, R192, log 6). -/
def serve (s : State) : Host.Outcome State Fault Refusal :=
  match s.inputs with
  | [] => .next s
  | e :: rest => hostAccess e (s.setInputs rest)

/-- Put an access in front of the host's accesses to come. -/
def State.withNext (s : State) (e : HostEvent) : State := s.setInputs (e :: s.inputs)

/-- The two address spaces (R38, R57). -/
inductive Space where
  | reg
  | wave
  deriving DecidableEq, Repr

/-- `MemRead(space, addr, n)` (R11): REG in words of 4 bytes, WAVE in entries of 2 bytes at addresses 0 to 255
(R50, R51); no other read exists. The value is the number formed by the bits read. -/
def memRead (s : State) (space : Space) (addr n : Nat) : Option Nat :=
  match space with
  | .reg => if n = 4 then some (s.regRead addr).toNat else none
  | .wave => if n = 2 ∧ addr < 256 then some (waveEntry s.wave (BitVec.ofNat 8 addr)).toNat else none

/-- `MemWrite(space, addr, n, v)` (R11): only REG is writable, in words of 4 bytes. -/
def memWrite (s : State) (space : Space) (addr n : Nat) (w : Word) : Option (Host.Outcome State Fault Refusal) :=
  match space with
  | .reg => if n = 4 then some (regWrite addr w s) else none
  | .wave => none

end Sys2Proof.Machine
end

