-- ==== Sys2Proof/Machine/Step.lean ====
section
/-! DEFINITION. One step of the machine: one access of the host (spec/00_scope.md R12). The block fetches
nothing and has no program counter (spec/10_state.md R21): its next instruction is the next word the host writes
to CMD. -/

namespace Sys2Proof.Machine

/-- One step (R12). -/
def step (s : State) : Host.Outcome State Fault Refusal := serve s

/-- `s` with the host's next access being the write of this command word to CMD, so that the next step runs it
(log 2). -/
def State.withFetchWord (s : State) (nbits w : Nat) : State := s.withNext (.write 0 (tableWord nbits w))

end Sys2Proof.Machine
end

