-- ==== Sys2Proof/Machine/Protocol.lean ====
section
/-! DEFINITION. The host's side of the contract (spec/42_host_contract.md) and the assembler notation
(spec/30_encoding.md R77, R78). The block executes none of this: the functions derive operand words and issue
accesses. The sample rate is an argument, since the spec gives it no value (spec/00_scope.md R7, log 12). -/

namespace Sys2Proof.Machine

/-- A non-negative rational quantity, `num / den` with `den` positive: hertz, seconds, or a fraction. -/
structure Ratio where
  num : Nat
  den : Nat
  deriving DecidableEq, Repr

/-- `clamp(x, lo, hi) = min(max(x, lo), hi)` (spec/42_host_contract.md, opening). -/
def clamp (x lo hi : Nat) : Nat := min (max x lo) hi

/-- FREQ = floor(f * 2^32 / Fs), the step size of a frequency (R150). -/
def freqWord (fs : Nat) (f : Ratio) : Word := BitVec.ofNat 32 (f.num * 2 ^ 32 / (f.den * fs))

/-- The source's range check, the host's to make: f <= Fs / 2 (R150). -/
def freqInRange (fs : Nat) (f : Ratio) : Bool := decide (2 * f.num ≤ f.den * fs)

/-- DUR = floor(T * Fs), a count of samples that must be below 2^31 (R151). -/
def durWord (fs : Nat) (t : Ratio) : Word := BitVec.ofNat 32 (t.num * fs / t.den)

/-- The range check of R151: the count is at most 2^31 - 1. -/
def durInRange (fs : Nat) (t : Ratio) : Bool := decide (t.num * fs / t.den ≤ 2147483647)

/-- SUS = floor(MAX_LEVEL * Sf), for a fraction up to 1 (R153). -/
def susWord (sf : Ratio) : Word := BitVec.ofNat 32 (Config.maxLevel * sf.num / sf.den)

/-- A rate that covers `range` in the time `t`: clamp(floor(range / (Fs * t)), 1, MAX_LEVEL), and MAX_LEVEL for
a time of zero (R154 to R156). -/
def rateWord (range fs : Nat) (t : Ratio) : Word :=
  BitVec.ofNat 32 (if fs * t.num = 0 then Config.maxLevel
    else clamp (range * t.den / (fs * t.num)) 1 Config.maxLevel)

/-- ATK (R154). -/
def atkWord (fs : Nat) (ta : Ratio) : Word := rateWord Config.maxLevel fs ta

/-- DCY, `sus` being the integer of R153 (R155). -/
def dcyWord (fs : Nat) (td : Ratio) (sus : Word) : Word := rateWord (Config.maxLevel - sus.toNat) fs td

/-- RLS (R156). -/
def rlsWord (fs : Nat) (tr : Ratio) (sus : Word) : Word := rateWord sus.toNat fs tr

/-- The musical description of a note: frequency, duration, attack, decay and release times, sustain fraction. -/
structure NoteSpec where
  freq : Ratio
  duration : Ratio
  attack : Ratio
  decay : Ratio
  sustain : Ratio
  release : Ratio
  deriving DecidableEq, Repr

/-- The six operand words of a note (R150 to R156). -/
def deriveNote (fs : Nat) (n : NoteSpec) : Note where
  freq := freqWord fs n.freq
  dur := durWord fs n.duration
  atk := atkWord fs n.attack
  dcy := dcyWord fs n.decay (susWord n.sustain)
  sus := susWord n.sustain
  rls := rlsWord fs n.release (susWord n.sustain)

/-- The names of the registers (R22). -/
inductive RegName where
  | cmd
  | result
  | rcode
  | status
  | active
  | freq
  | dur
  | atk
  | dcy
  | sus
  | rls
  deriving DecidableEq, Repr

/-- The number of a register, which is its address in REG (R22, R57). -/
def RegName.number : RegName → Nat
  | .cmd => 0
  | .result => 1
  | .rcode => 2
  | .status => 3
  | .active => 4
  | .freq => 5
  | .dur => 6
  | .atk => 7
  | .dcy => 8
  | .sus => 9
  | .rls => 10

/-- The write of a command word to CMD (R77). -/
def issue (i : Instr) : HostEvent := .write 0 (encode i)

/-- NOTE: the six operand writes, then ALLOC (R78). -/
def noteEvents (n : Note) : List HostEvent :=
  [.write 5 n.freq, .write 6 n.dur, .write 7 n.atk, .write 8 n.dcy, .write 9 n.sus, .write 10 n.rls,
    issue .alloc]

/-- The statements of the assembler notation and the two pseudo-instructions with a fixed expansion (R77, R78). -/
inductive Asm where
  | wr (reg : RegName) (value : Word)
  | rd (reg : RegName)
  | alloc
  | rel (i : BitVec 8)
  | reclaim (i : BitVec 8)
  | mix
  | isdone (i : BitVec 8)
  | cmdw (value : Word)
  | note (n : Note)
  | mixn (count : Nat)
  deriving DecidableEq, Repr

/-- The host accesses a statement stands for (R77, R78). -/
def Asm.events : Asm → List HostEvent
  | .wr reg value => [.write reg.number value]
  | .rd reg => [.read reg.number]
  | .alloc => [issue .alloc]
  | .rel i => [issue (.rel i)]
  | .reclaim i => [issue (.reclaim i)]
  | .mix => [issue .mix]
  | .isdone i => [issue (.isdone i)]
  | .cmdw value => [.write 0 value]
  | .note n => noteEvents n
  | .mixn count => List.replicate count (issue .mix)

/-- The host makes these accesses, one after another (R59). -/
def runEvents : List HostEvent → State → Host.Outcome State Fault Refusal
  | [], s => .next s
  | e :: es, s => andThen (hostAccess e s) (runEvents es)

/-- The commands of a list, one after another. -/
def execAll : List Instr → State → Host.Outcome State Fault Refusal
  | [], s => .next s
  | i :: is, s => andThen (exec i s) (execAll is)

/-- What SWEEP issues once it has read STATUS: RECLAIM of the HAI field, unless that is 0xFF (R78, R158). -/
def sweepEvents (status : Word) : List HostEvent :=
  if status.extractLsb' 0 8 = 0xFF#8 then [] else [issue (.reclaim (status.extractLsb' 0 8))]

/-- SWEEP (R78): RD STATUS, then at most one RECLAIM. -/
def sweep (s : State) : Host.Outcome State Fault Refusal :=
  andThen (hostAccess (.read 3) s) (runEvents (sweepEvents s.status))

/-- The source's reclaim pass over these indices, in this order: ISDONE i, then RECLAIM i when the result is 1
(R158). -/
def reclaimPass : List (BitVec 8) → State → Host.Outcome State Fault Refusal
  | [], s => .next s
  | i :: is, s =>
    andThen (hostAccess (issue (.isdone i)) s) fun t =>
      andThen (if t.result = 1#32 then hostAccess (issue (.reclaim i)) t else .next t) (reclaimPass is)

/-- One output frame (R157): NOTE for each due note while ALLOC answers OK, a note that finds no voice and
those after it staying due, then one MIX. It answers the state and the notes still due. -/
def playFrame : List Note → State → Host.Outcome (State × List Note) Fault Refusal
  | [], s => andThen (hostAccess (issue .mix) s) fun t => .next (t, [])
  | n :: due, s =>
    andThen (runEvents (noteEvents n) s) fun t =>
      if t.rcode = codeWord .ok then playFrame due t
      else andThen (hostAccess (issue .mix) t) fun u => .next (u, n :: due)

/-- Where the frames of a buffer fill leave the host: the state of the block, the notes still due, and the RESULT of
each frame's MIX, the first frame first. -/
structure Filled where
  state : State
  due : List Note
  samples : List Word
  deriving DecidableEq, Repr

/-- The frames of a fill, one after another (R157). Each entry of the list holds the notes that fall due at its
frame; they queue behind those that earlier frames left due (log 18). -/
def playFrames : List (List Note) → List Note → State → Host.Outcome Filled Fault Refusal
  | [], due, s => .next ⟨s, due, []⟩
  | fresh :: frames, due, s =>
    andThen (playFrame (due ++ fresh) s) fun p =>
      andThen (playFrames frames p.2 p.1) fun f => .next { f with samples := p.1.result :: f.samples }

/-- One buffer fill: its frames, then SWEEP (R157). The notes still due are those of the next fill. -/
def playFill (frames : List (List Note)) (due : List Note) (s : State) : Host.Outcome Filled Fault Refusal :=
  andThen (playFrames frames due s) fun f => andThen (sweep f.state) fun t => .next { f with state := t }

/-- The voice part of `busy()`: ACTIVE is not 0 (R159). -/
def State.busy (s : State) : Bool := decide (s.regRead 4 ≠ 0#32)

end Sys2Proof.Machine
end

