-- ==== Sys2Proof/Safety.lean ====
section
/-! DEFINITION. What a good state of the voice bank is, and the relations between states in which statements
are made (spec/10_state.md R28 to R32). -/

namespace Sys2Proof.Machine

/-- The bank has a number of voices that R7 admits, and HAI is NONE or names a voice (R29). -/
def State.WellSized (s : State) : Prop :=
  legalBankSize s.nVoices = true ∧ -1 ≤ s.hai ∧ s.hai < s.nVoices

/-- The weak pool invariant (R30): every voice above HAI is DONE. -/
def State.WeakPool (s : State) : Prop :=
  ∀ i : Nat, s.hai < i → i < s.nVoices → (s.voice i).isDone = true

/-- The voice invariant (R31): a DONE voice has level 0. -/
def State.DoneSilent (s : State) : Prop :=
  ∀ i : Nat, i < s.nVoices → (s.voice i).isDone = true → (s.voice i).level = 0#32

/-- RCODE is one of the four codes of R171, and with every code but OK RESULT is 0xFFFF_FFFF (R25, R121). -/
def State.ResponseLegal (s : State) : Prop :=
  s.rcode.toNat ≤ 3 ∧ (s.rcode ≠ codeWord .ok → s.result = Config.noResult)

/-- The invariant of the reachable states: R29, R30, R31 and R25 together. -/
structure State.Inv (s : State) : Prop where
  sized : s.WellSized
  pool : s.WeakPool
  silent : s.DoneSilent
  response : s.ResponseLegal

/-- The strong pool property (R32, no invariant): HAI is the greatest index with a voice that is not DONE, or
NONE when there is none. -/
def State.StrongPool (s : State) : Prop :=
  s.WeakPool ∧ (s.hai = -1 ∨ (0 ≤ s.hai ∧ s.hai < s.nVoices ∧ (s.voice s.hai.toNat).isDone = false))

/-- The states a run from power-on reset of a legal bank reaches, whatever the host does. -/
inductive Reachable : State → Prop where
  | start (n : Nat) (wave : Vector Entry 256) (inputs : List HostEvent) (h : legalBankSize n = true) :
      Reachable { State.powerOn n wave with inputs := inputs }
  | next (s t : State) (h : Reachable s) (st : step s = .next t) : Reachable t

/-- Two states agree on CMD, on the six operand registers, on the table and on the model's own two fields: on
everything no command writes (R23, R24, R33). -/
structure State.SameHostSide (s t : State) : Prop where
  cmd : t.cmd = s.cmd
  freq : t.freq = s.freq
  dur : t.dur = s.dur
  atk : t.atk = s.atk
  dcy : t.dcy = s.dcy
  sus : t.sus = s.sus
  rls : t.rls = s.rls
  wave : ∀ k : BitVec 8, waveEntry t.wave k = waveEntry s.wave k
  inputs : t.inputs = s.inputs
  trace : t.trace = s.trace

/-- A voice the host can neither hear nor tell from another such voice: DONE or RELEASED, at level 0. -/
def Voice.mute (v : Voice) : Prop :=
  v.level = 0#32 ∧ (v.envelopeState = .done ∨ v.envelopeState = .released)

/-! The sample numbers of R104, counted from V.reset, for a note with the given constants. -/

/-- ceil(x / y), for a positive y. -/
def ceilDiv (x y : Nat) : Nat := (x + y - 1) / y

/-- K_A: the sample at which RISING ends, for a positive attack rate (R104). -/
def attackSamples (n : Note) : Nat := 4294967295 / n.atk.toNat + 1

/-- K_D: how many samples FALLING lasts; 1 with a decay rate of 0, which ends only at a full sustain level
(R104). -/
def decaySamples (n : Note) : Nat :=
  if n.dcy = 0#32 then 1 else max 1 (ceilDiv (4294967295 - n.sus.toNat) n.dcy.toNat)

/-- n_R: the sample at which SUSTAIN ends, for a positive sustain level (R104). The duration is signed. -/
def releaseSample (n : Note) : Nat :=
  max (attackSamples n + decaySamples n + 1) (n.dur.toInt + 1).toNat

/-- K_R from a level: how many samples RELEASED lasts; 1 with a release rate of 0, which ends only at level 0
(R104, R105). -/
def releaseSamples (level rate : Word) : Nat :=
  if rate = 0#32 then 1 else max 1 (ceilDiv level.toNat rate.toNat)

/-- The conditions under which R105 says a note that is never released ends. -/
def Note.valid (n : Note) : Prop :=
  n.atk ≠ 0#32 ∧ (n.dcy ≠ 0#32 ∨ n.sus = 0xFFFFFFFF#32) ∧ (n.rls ≠ 0#32 ∨ n.sus = 0#32)

/-- Two voices no command can tell apart: equal, or both mute and in the same envelope state, whatever their
other fields hold (R35's last row, 93_implementation_defined.md U12). -/
def Voice.Indistinct (v w : Voice) : Prop :=
  v = w ∨ (v.mute ∧ w.mute ∧ v.envelopeState = w.envelopeState)

/-- Two states that differ at most in voice fields that no command can observe. -/
def State.Indistinct (s t : State) : Prop :=
  List.Forall₂ Voice.Indistinct s.voices t.voices ∧ { s with voices := t.voices } = t

end Sys2Proof.Machine
end

