-- ==== Sys2Proof/Certificates/Slice0/Obligations.lean ====
section
/-! DEFINITION. The statements for the provers, file by file of spec/ in the order encoding, commands, voice,
port, pool, host, whole machine. Numbers stand as the spec writes them, not under the model's names for them. -/

open Sys2Proof Sys2Proof.Machine

/-! ## The command word (spec/30_encoding.md) -/

/-- Decoding the word of a command gives the command back, with every index it can carry (R71 to R73). -/
def Obligations.DecodeOfEncodeIsTheCommand : Prop := ∀ i : Instr, decode (encode i) = .instr i

/-- A word that decodes to a command is that command's word: no two words are one command (R71, R72). -/
def Obligations.DecodedWordIsTheEncoding : Prop := ∀ (w : Word) (i : Instr), decode w = .instr i → encode i = w

/-- The words of the examples of R77 and R124 decode to what the text says. -/
def Obligations.SpecWordsDecode : Prop :=
  decode 0x00000001#32 = .instr .alloc ∧ decode 0x00000302#32 = .instr (.rel 3#8) ∧
  decode 0x00000903#32 = .instr (.reclaim 9#8) ∧ decode 0x00000004#32 = .instr .mix ∧
  decode 0x00000005#32 = .instr (.isdone 0#8) ∧ decodeTableWord 32 0x00000702 = some (.rel 7#8) ∧
  decodeTableWord 32 0x00000101 = none

/-- The opcode map as match and mask: a word decodes to a row's command exactly when it matches the row, and is
illegal exactly when it matches none (R72). -/
def Obligations.OpcodeMapIsMatchAndMask : Prop :=
  ∀ w : Word,
    (decode w = .instr .alloc ↔ w &&& 0xFFFFFFFF#32 = 0x00000001#32) ∧
    ((∃ idx, decode w = .instr (.rel idx)) ↔ w &&& 0xFFFF00FF#32 = 0x00000002#32) ∧
    ((∃ idx, decode w = .instr (.reclaim idx)) ↔ w &&& 0xFFFF00FF#32 = 0x00000003#32) ∧
    (decode w = .instr .mix ↔ w &&& 0xFFFFFFFF#32 = 0x00000004#32) ∧
    ((∃ idx, decode w = .instr (.isdone idx)) ↔ w &&& 0xFFFF00FF#32 = 0x00000005#32) ∧
    ((∃ why, decode w = .illegal why) ↔
      w &&& 0xFFFFFFFF#32 ≠ 0x00000001#32 ∧ w &&& 0xFFFF00FF#32 ≠ 0x00000002#32 ∧
      w &&& 0xFFFF00FF#32 ≠ 0x00000003#32 ∧ w &&& 0xFFFFFFFF#32 ≠ 0x00000004#32 ∧
      w &&& 0xFFFF00FF#32 ≠ 0x00000005#32)

/-- A write of CMD checks the word in the order of R70, and the first failing check decides the response; a word
rejected by one of the four changes CMD, RCODE and RESULT only. -/
def Obligations.ExecuteChecksInOrder : Prop :=
  ∀ (w : Word) (s : State),
    let op := w.toNat % 256
    let idx := w.toNat / 256 % 256
    let rsv := w.toNat / 65536
    let s' := { s with cmd := w }
    let badOpcode : State := { s' with rcode := 3#32, result := 0xFFFFFFFF#32 }
    let badIndex : State := { s' with rcode := 2#32, result := 0xFFFFFFFF#32 }
    regWrite 0 w s =
      if rsv ≠ 0 then .next badOpcode
      else if ¬ (op = 1 ∨ op = 2 ∨ op = 3 ∨ op = 4 ∨ op = 5) then .next badOpcode
      else if (op = 1 ∨ op = 4) ∧ idx ≠ 0 then .next badOpcode
      else if (op = 2 ∨ op = 3 ∨ op = 5) ∧ s.nVoices ≤ idx then .next badIndex
      else if op = 1 then exec .alloc s'
      else if op = 2 then exec (.rel (BitVec.ofNat 8 idx)) s'
      else if op = 3 then exec (.reclaim (BitVec.ofNat 8 idx)) s'
      else if op = 4 then exec .mix s'
      else exec (.isdone (BitVec.ofNat 8 idx)) s'

/-- An illegal word, exactly as R74 lists them, is answered with ERR_OPCODE and does nothing else; every other
word is a command. -/
def Obligations.IllegalWordsAnswerErrOpcode : Prop :=
  ∀ (w : Word),
    let illegal : Prop := w.toNat / 65536 ≠ 0 ∨ w.toNat % 256 = 0 ∨ 6 ≤ w.toNat % 256 ∨
      ((w.toNat % 256 = 1 ∨ w.toNat % 256 = 4) ∧ w.toNat / 256 % 256 ≠ 0)
    (illegal → ∀ s : State,
      regWrite 0 w s = .next { s with cmd := w, rcode := 3#32, result := 0xFFFFFFFF#32 }) ∧
    (¬ illegal → ∃ i, decode w = .instr i)

/-! ## The commands (spec/41_pool_commands.md, spec/60_exceptions.md) -/

/-- Every word written to CMD, legal or not, is answered once (R121, R170): the write answers a next state, the host
observes one response, the RCODE and RESULT of that state, the code is one of the four, and RESULT is 0xFFFF_FFFF
with every code but OK. That a response is observed in `trace` is the model's choice (log 3). -/
def Obligations.EveryWordEndsInOneResponse : Prop :=
  (∀ (s : State) (r : Word),
    s.respond .ok r = { s with rcode := 0#32, result := r } ∧
    s.respond .failure r = { s with rcode := 1#32, result := r } ∧
    s.respond .errIndex r = { s with rcode := 2#32, result := r } ∧
    s.respond .errOpcode r = { s with rcode := 3#32, result := r }) ∧
  ∀ (w : Word) (s : State), ∃ t : State,
    regWrite 0 w s = .next t ∧ t.trace = s.trace ∧
    hostAccess (.write 0 w) s = .next { t with trace := .response t.rcode t.result :: s.trace } ∧
    (t.rcode = 0#32 ∨ t.rcode = 1#32 ∨ t.rcode = 2#32 ∨ t.rcode = 3#32) ∧
    (t.rcode ≠ 0#32 → t.result = 0xFFFFFFFF#32)

/-- Which command can give which code (R171): FAILURE only ALLOC with every voice active, ERR_INDEX only an
indexed command out of range, ERR_OPCODE exactly an illegal word, and no other code. -/
def Obligations.ResponseCodeCauses : Prop :=
  ∀ (w : Word) (s t : State), regWrite 0 w s = .next t →
    (t.rcode = 0#32 ∨ t.rcode = 1#32 ∨ t.rcode = 2#32 ∨ t.rcode = 3#32) ∧
    (t.rcode = 1#32 ↔
      decode w = .instr .alloc ∧ ∀ j, j < s.nVoices → (s.voice j).envelopeState ≠ .done) ∧
    (t.rcode = 2#32 ↔ ∃ idx : BitVec 8, s.nVoices ≤ idx.toNat ∧
      (decode w = .instr (.rel idx) ∨ decode w = .instr (.reclaim idx) ∨ decode w = .instr (.isdone idx))) ∧
    (t.rcode = 3#32 ↔ ∃ why, decode w = .illegal why)

/-- On any response other than OK the block records the word, the code and 0xFFFF_FFFF and changes nothing else
(R172, R175). -/
def Obligations.NonOkResponseRecordsOnly : Prop :=
  ∀ (w : Word) (s t : State), regWrite 0 w s = .next t → t.rcode ≠ 0#32 →
    t = { s with cmd := w, rcode := t.rcode, result := 0xFFFFFFFF#32 }

/-- ALLOC (R122): the least free voice takes the six operand registers, HAI rises to it, the response is OK and
its index; with every voice active the response is FAILURE and nothing else changes. -/
def Obligations.AllocTakesTheLeastFreeVoice : Prop :=
  ∀ s : State,
    (∀ i : Nat, i < s.nVoices → (s.voice i).envelopeState = .done →
      (∀ j, j < i → (s.voice j).envelopeState ≠ .done) →
      ∃ t, exec .alloc s = .next t ∧
        t.voice i = { phase := 0#32, stepSize := s.freq, level := 0#32, envelopeState := .rising,
                      cyclesRemaining := s.dur, attackRate := s.atk, decayRate := s.dcy,
                      sustainLevel := s.sus, releaseRate := s.rls } ∧
        (∀ j, j ≠ i → t.voice j = s.voice j) ∧ t.nVoices = s.nVoices ∧ t.hai = max s.hai i ∧
        t.rcode = 0#32 ∧ t.result = BitVec.ofNat 32 i ∧ s.SameHostSide t) ∧
    ((∀ j, j < s.nVoices → (s.voice j).envelopeState ≠ .done) →
      exec .alloc s = .next { s with rcode := 1#32, result := 0xFFFFFFFF#32 })

/-- REL idx (R124): the voice to RELEASED and no other field of it written, HAI raised to it, the response OK and
0; an index out of range is ERR_INDEX. -/
def Obligations.RelReleasesTheVoice : Prop :=
  ∀ (idx : BitVec 8) (s : State),
    (idx.toNat < s.nVoices → ∃ t, exec (.rel idx) s = .next t ∧
      t.voice idx.toNat = { s.voice idx.toNat with envelopeState := .released } ∧
      (∀ j, j ≠ idx.toNat → t.voice j = s.voice j) ∧ t.nVoices = s.nVoices ∧
      t.hai = max s.hai idx.toNat ∧ t.rcode = 0#32 ∧ t.result = 0#32 ∧ s.SameHostSide t) ∧
    (s.nVoices ≤ idx.toNat → exec (.rel idx) s = .next { s with rcode := 2#32, result := 0xFFFFFFFF#32 })

/-- RECLAIM idx (R125): with idx = HAI, HAI becomes the greatest index up to it with an active voice, or NONE;
otherwise nothing but the response changes; an index out of range is ERR_INDEX. -/
def Obligations.ReclaimScansDown : Prop :=
  ∀ (idx : BitVec 8) (s : State),
    (idx.toNat < s.nVoices → (idx.toNat : Int) = s.hai →
      ∃ j : Int, exec (.reclaim idx) s = .next { s with hai := j, rcode := 0#32, result := 0#32 } ∧
        -1 ≤ j ∧ j ≤ idx.toNat ∧
        (∀ k : Nat, j < k → k ≤ idx.toNat → (s.voice k).envelopeState = .done) ∧
        (0 ≤ j → (s.voice j.toNat).envelopeState ≠ .done)) ∧
    (idx.toNat < s.nVoices → (idx.toNat : Int) ≠ s.hai →
      exec (.reclaim idx) s = .next { s with rcode := 0#32, result := 0#32 }) ∧
    (s.nVoices ≤ idx.toNat →
      exec (.reclaim idx) s = .next { s with rcode := 2#32, result := 0xFFFFFFFF#32 })

/-- MIX (R127): every voice up to HAI gives one sample, in ascending order, summed from 0 with saturation at each
addition; voices above HAI and HAI itself are untouched; the response is OK and the sum as a word. -/
def Obligations.MixSumsAscending : Prop :=
  ∀ s : State, -1 ≤ s.hai → s.hai < s.nVoices →
    ∃ t, exec .mix s = .next t ∧ t.rcode = 0#32 ∧
      t.result = BitVec.ofInt 32 ((List.range (s.hai + 1).toNat).foldl
        (fun acc i => satadd32 acc ((s.voice i).sample s.wave)) 0) ∧
      (∀ i : Nat, (i : Int) ≤ s.hai → t.voice i = (s.voice i).advance) ∧
      (∀ i : Nat, s.hai < i → t.voice i = s.voice i) ∧
      t.nVoices = s.nVoices ∧ t.hai = s.hai ∧ s.SameHostSide t

/-- ISDONE idx (R128): OK and 1 for a DONE voice, 0 for any other, nothing else changed; an index out of range is
ERR_INDEX. -/
def Obligations.IsdoneAnswersTheState : Prop :=
  ∀ (idx : BitVec 8) (s : State),
    (idx.toNat < s.nVoices → exec (.isdone idx) s =
      .next { s with
        rcode := 0#32,
        result := if (s.voice idx.toNat).envelopeState = .done then 1#32 else 0#32 }) ∧
    (s.nVoices ≤ idx.toNat → exec (.isdone idx) s = .next { s with rcode := 2#32, result := 0xFFFFFFFF#32 })

/-- The frame of every command: CMD, the operand registers, the table and the number of voices stay; ALLOC writes
no voice but the one its scan answers, REL none but its operand, MIX none above HAI, RECLAIM and ISDONE none; MIX
and ISDONE leave HAI alone, and so does a failing ALLOC. -/
def Obligations.FrameOfEveryCommand : Prop :=
  ∀ (i : Instr) (s t : State), exec i s = .next t →
    s.SameHostSide t ∧ t.nVoices = s.nVoices ∧
    match i with
    | .alloc => (∀ k, s.firstFree ≠ some k → t.voice k = s.voice k) ∧ (s.firstFree = none → t.hai = s.hai)
    | .rel idx => ∀ k, k ≠ idx.toNat → t.voice k = s.voice k
    | .reclaim idx => t.voices = s.voices ∧ ((idx.toNat : Int) ≠ s.hai → t.hai = s.hai)
    | .mix => (∀ k : Nat, s.visited ≤ k → t.voice k = s.voice k) ∧ t.hai = s.hai
    | .isdone _ => t.voices = s.voices ∧ t.hai = s.hai

/-- satadd32 (R126): the exact sum where it fits, the extreme with the sign of the operands where it does not; in
range, commutative, with 0 neutral, and not associative. -/
def Obligations.SaturatingAdditionClamps : Prop :=
  (∀ a b : Int, -2147483648 ≤ a → a ≤ 2147483647 → -2147483648 ≤ b → b ≤ 2147483647 →
    (-2147483648 ≤ satadd32 a b ∧ satadd32 a b ≤ 2147483647) ∧
    (-2147483648 ≤ a + b → a + b ≤ 2147483647 → satadd32 a b = a + b) ∧
    (2147483647 < a + b → 0 < a ∧ 0 < b ∧ satadd32 a b = 2147483647) ∧
    (a + b < -2147483648 → a < 0 ∧ b < 0 ∧ satadd32 a b = -2147483648) ∧
    satadd32 a 0 = a ∧ satadd32 a b = satadd32 b a) ∧
  satadd32 (satadd32 2147483647 1) (-1) = 2147483646 ∧ satadd32 2147483647 (satadd32 1 (-1)) = 2147483647

/-- The mix is in range (R131): the accumulator of MIX never leaves i32, so RESULT, read as a signed word, is
the accumulator itself. -/
def Obligations.MixStaysInRange : Prop :=
  ∀ s : State,
    -2147483648 ≤ mixVoices s.wave s.visited s.voices 0 ∧
    mixVoices s.wave s.visited s.voices 0 ≤ 2147483647 ∧
    ∀ t, exec .mix s = .next t → t.result.toInt = mixVoices s.wave s.visited s.voices 0

/-- A stale HAI never changes a result (R133, R195): under the weak pool invariant, MIX with HAI too high gives
the same RESULT and leaves the same voices. -/
def Obligations.StaleHaiIsHarmless : Prop :=
  ∀ (s : State) (h : Int), s.WeakPool → s.hai ≤ h →
    ∃ t u, exec .mix s = .next t ∧ exec .mix { s with hai := h } = .next u ∧
      u.result = t.result ∧ u.voices = t.voices

/-- REL of a free voice (R203, R124): it costs one MIX, in which the voice adds nothing to the sum and becomes free
again. -/
def Obligations.ReleasedFreeVoiceEndsAtTheNextMix : Prop :=
  ∀ (idx : BitVec 8) (s : State), s.Inv → idx.toNat < s.nVoices →
    (s.voice idx.toNat).envelopeState = .done →
    ∃ t u p, exec (.rel idx) s = .next t ∧ exec .mix t = .next u ∧ exec .mix s = .next p ∧
      t.hai = max s.hai idx.toNat ∧ t.firstFree ≠ some idx.toNat ∧ u.hai = t.hai ∧
      u.result = p.result ∧ (u.voice idx.toNat).envelopeState = .done

/-- Reuse order (R134): with nothing else between them, ALLOCs after power-on reset return 0, 1, 2, ... in that
order, one per voice, and the next answers FAILURE. -/
def Obligations.AllocsAfterResetAscend : Prop :=
  ∀ (n : Nat) (wave : Vector Entry 256) (k : Nat), k ≤ n →
    ∃ s t, execAll (List.replicate k .alloc) (State.powerOn n wave) = .next s ∧
      exec .alloc s = .next t ∧
      (k < n → t.rcode = 0#32 ∧ t.result = BitVec.ofNat 32 k ∧ t.hai = k) ∧
      (k = n → t.rcode = 1#32 ∧ t.result = 0xFFFFFFFF#32)

/-! ## The voice (spec/40_voice.md) -/

/-- V.reset (R91): all nine fields, from the six words, whatever the voice held. -/
def Obligations.VoiceResetWritesAllFields : Prop :=
  ∀ n : Note, Voice.reset n =
    { phase := 0#32, stepSize := n.freq, level := 0#32, envelopeState := .rising, cyclesRemaining := n.dur,
      attackRate := n.atk, decayRate := n.dcy, sustainLevel := n.sus, releaseRate := n.rls }

/-- V.envStep in RISING (R93): the carry alone ends the attack; a sum of exactly 0xFFFF_FFFF does not. -/
def Obligations.EnvelopeStepInRising : Prop :=
  ∀ v : Voice, v.envelopeState = .rising →
    v.envStep =
      if 0xFFFFFFFF < v.level.toNat + v.attackRate.toNat then
        { v with level := 0xFFFFFFFF#32, envelopeState := .falling }
      else { v with level := BitVec.ofNat 32 (v.level.toNat + v.attackRate.toNat) }

/-- V.envStep in FALLING (R94): a borrow, or a difference at or below the sustain level, snaps to that level and
moves on, to DONE when it is exactly 0. -/
def Obligations.EnvelopeStepInFalling : Prop :=
  ∀ v : Voice, v.envelopeState = .falling →
    v.envStep =
      if v.level.toNat < v.decayRate.toNat ∨ v.level.toNat - v.decayRate.toNat ≤ v.sustainLevel.toNat then
        { v with
          level := v.sustainLevel,
          envelopeState := if v.sustainLevel = 0#32 then .done else .sustain }
      else { v with level := BitVec.ofNat 32 (v.level.toNat - v.decayRate.toNat) }

/-- V.envStep in SUSTAIN (R95): the level is held; the signed counter at or below 0 moves to RELEASED. -/
def Obligations.EnvelopeStepInSustain : Prop :=
  ∀ v : Voice, v.envelopeState = .sustain →
    v.envStep = if v.cyclesRemaining.toInt ≤ 0 then { v with envelopeState := .released } else v

/-- V.envStep in RELEASED (R96): reaching zero, or a borrow, ends the note at level 0. -/
def Obligations.EnvelopeStepInReleased : Prop :=
  ∀ v : Voice, v.envelopeState = .released →
    v.envStep =
      if v.level.toNat ≤ v.releaseRate.toNat then { v with level := 0#32, envelopeState := .done }
      else { v with level := BitVec.ofNat 32 (v.level.toNat - v.releaseRate.toNat) }

/-- V.envStep in DONE (R97): the level is forced to 0 and the state is terminal: of all commands only ALLOC, of the
voice its scan answers, and REL, of its operand, take a voice out of it. -/
def Obligations.EnvelopeStepInDone : Prop :=
  (∀ v : Voice, v.envelopeState = .done → v.envStep = { v with level := 0#32 }) ∧
  ∀ (i : Instr) (s t : State) (j : Nat), exec i s = .next t →
    (s.voice j).envelopeState = .done → (t.voice j).envelopeState ≠ .done →
    (i = .alloc ∧ s.firstFree = some j ∧ t.voice j = Voice.reset s.note) ∨
    (∃ idx : BitVec 8, i = .rel idx ∧ idx.toNat = j ∧ t.voice j = (s.voice j).release)

/-- V.nextSample (R99): nothing on a DONE voice; on any other, the envelope steps first, then the phase advances
modulo 2^32, the entry at its top eight bits is multiplied by the top sixteen bits of the new level, and the
counter counts down to -2^31 at the lowest. -/
def Obligations.NextSampleInOrder : Prop :=
  ∀ (wave : Vector Entry 256) (v : Voice),
    (v.envelopeState = .done → v.advance = v ∧ v.sample wave = 0) ∧
    (v.envelopeState ≠ .done →
      let phase := BitVec.ofNat 32 ((v.phase.toNat + v.stepSize.toNat) % 2 ^ 32)
      v.advance = { v.envStep with
        phase := phase,
        cyclesRemaining := BitVec.ofInt 32 (max (v.cyclesRemaining.toInt - 1) (-2147483648)) } ∧
      v.sample wave =
        (waveEntry wave (BitVec.ofNat 8 (phase.toNat / 2 ^ 24))).toInt *
          ((v.envStep.level.toNat / 2 ^ 16 : Nat) : Int))

/-- The range of a sample (R102): at most 32768 * 65535 in absolute value for any table, at most 8192 * 65535 for
the default one; four peak voices then fit and five clamp. -/
def Obligations.SampleInRange : Prop :=
  (∀ (wave : Vector Entry 256) (v : Voice),
    -2147450880 ≤ v.sample wave ∧ v.sample wave ≤ 2147450880) ∧
  (∀ v : Voice, -536862720 ≤ v.sample defaultWave ∧ v.sample defaultWave ≤ 536862720) ∧
  satadd32 (satadd32 (satadd32 536862720 536862720) 536862720) 536862720 = 2147450880 ∧
  satadd32 2147450880 536862720 = 2147483647

/-- The timeline of a note that is never released, by sample number (R104). -/
def Obligations.NoteTimeline : Prop :=
  ∀ n : Note,
    let v := Voice.reset n
    let a := n.atk.toNat
    let dc := n.dcy.toNat
    let s := n.sus.toNat
    let r := n.rls.toNat
    let kA := attackSamples n
    let kD := decaySamples n
    let nR := releaseSample n
    (∀ k, k * a ≤ 4294967295 → (v.after k).level.toNat = k * a ∧ (v.after k).envelopeState = .rising) ∧
    (0 < a →
      ((v.after kA).level = 0xFFFFFFFF#32 ∧ (v.after kA).envelopeState = .falling) ∧
      (∀ j, s + j * dc < 4294967295 →
        (v.after (kA + j)).level.toNat = 4294967295 - j * dc ∧ (v.after (kA + j)).envelopeState = .falling) ∧
      (0 < dc ∨ s = 4294967295 →
        ((v.after (kA + kD)).level = n.sus ∧
          (v.after (kA + kD)).envelopeState = if s = 0 then .done else .sustain) ∧
        (0 < s →
          (∀ k, kA + kD ≤ k → k < nR →
            (v.after k).level = n.sus ∧ (v.after k).envelopeState = .sustain) ∧
          (∀ m, m * r < s →
            (v.after (nR + m)).level.toNat = s - m * r ∧ (v.after (nR + m)).envelopeState = .released) ∧
          (0 < r →
            (v.after (nR + releaseSamples n.sus n.rls)).envelopeState = .done ∧
            (v.after (nR + releaseSamples n.sus n.rls)).level = 0#32))))

/-- Termination (R105): under its three conditions a note that is never released is DONE after the bound of the
rule, whose parts are bounded themselves; and a released voice is DONE within the release bound. -/
def Obligations.NoteTerminates : Prop :=
  (∀ n : Note, n.valid →
    ((Voice.reset n).after (releaseSample n + releaseSamples n.sus n.rls)).envelopeState = .done ∧
    attackSamples n ≤ 2 ^ 32 ∧ decaySamples n ≤ 2 ^ 32 - 1 ∧ releaseSamples n.sus n.rls ≤ 2 ^ 32 - 1) ∧
  (∀ v : Voice, v.releaseRate ≠ 0#32 ∨ v.level = 0#32 →
    (v.release.after (releaseSamples v.level v.releaseRate)).envelopeState = .done)

/-- Level at and after DONE (R106): a DONE voice of a reachable state has level 0; the call in which a voice
becomes DONE returns 0; every later call returns 0 and writes nothing. -/
def Obligations.SilentAtAndAfterDone : Prop :=
  (∀ s : State, Reachable s → ∀ i, i < s.nVoices → (s.voice i).envelopeState = .done →
    (s.voice i).level = 0#32) ∧
  (∀ (wave : Vector Entry 256) (v : Voice), v.envelopeState ≠ .done → v.advance.envelopeState = .done →
    v.sample wave = 0 ∧ v.advance.level = 0#32 ∧
    ∀ k, v.advance.after k = v.advance ∧ (v.advance.after k).sample wave = 0)

/-- Pitch (R107): while a voice stays active its phase is linear in the number of samples, so its table index
repeats after 2^32 / gcd(stepSize, 2^32) samples. -/
def Obligations.PhaseIsLinearAndPeriodic : Prop :=
  ∀ v : Voice,
    (∀ k, (∀ j, j < k → (v.after j).envelopeState ≠ .done) →
      (v.after k).phase = v.phase + BitVec.ofNat 32 k * v.stepSize) ∧
    (∀ k, (∀ j, j < k + 2 ^ 32 / Nat.gcd v.stepSize.toNat (2 ^ 32) → (v.after j).envelopeState ≠ .done) →
      tableIndex (v.after (k + 2 ^ 32 / Nat.gcd v.stepSize.toNat (2 ^ 32))).phase =
        tableIndex (v.after k).phase)

/-- Zero rates leak a voice (R197): it stays in RISING at level 0, in FALLING at full level, or in RELEASED, for
ever; REL ends the first two, and no command changes the third. -/
def Obligations.ZeroRatesNeverEnd : Prop :=
  (∀ n : Note, n.atk = 0#32 → ∀ k,
    ((Voice.reset n).after k).envelopeState = .rising ∧ ((Voice.reset n).after k).level = 0#32 ∧
    ((Voice.reset n).after k).release.advance.envelopeState = .done) ∧
  (∀ v : Voice, v.envelopeState = .falling → v.level = 0xFFFFFFFF#32 → v.decayRate = 0#32 →
    v.sustainLevel ≠ 0xFFFFFFFF#32 → ∀ k,
      (v.after k).envelopeState = .falling ∧ (v.after k).level = 0xFFFFFFFF#32 ∧
      (v.releaseRate ≠ 0#32 →
        ((v.after k).release.after (releaseSamples 0xFFFFFFFF#32 v.releaseRate)).envelopeState = .done)) ∧
  (∀ (i : Instr) (s t : State) (j : Nat), exec i s = .next t →
    (s.voice j).envelopeState = .released → (s.voice j).releaseRate = 0#32 → (s.voice j).level ≠ 0#32 →
    (t.voice j).envelopeState = .released ∧ (t.voice j).releaseRate = 0#32 ∧
    (t.voice j).level = (s.voice j).level)

/-- The default table (R33): the listed entries of the first quarter period, and the two symmetries from which the
other entries follow. -/
def Obligations.DefaultTableEntriesAndSymmetries : Prop :=
  let w := fun k : Nat => (waveEntry defaultWave (BitVec.ofNat 8 k)).toInt
  (List.range 65).map w =
    [0, 201, 402, 603, 803, 1003, 1202, 1401, 1598, 1795, 1990, 2185, 2378, 2570, 2760, 2948] ++
    [3135, 3320, 3503, 3683, 3862, 4038, 4212, 4383, 4551, 4717, 4880, 5040, 5197, 5351, 5501, 5649] ++
    [5793, 5933, 6070, 6203, 6333, 6458, 6580, 6698, 6811, 6921, 7027, 7128, 7225, 7317, 7405, 7489] ++
    [7568, 7643, 7713, 7779, 7839, 7895, 7946, 7993, 8035, 8071, 8103, 8130, 8153, 8170, 8182, 8190] ++
    [8192] ∧
  (∀ k : Fin 64, 1 ≤ k.val → w (128 - k.val) = w k.val) ∧
  (∀ k : Fin 128, w (128 + k.val) = -w k.val) ∧
  w 128 = 0

/-! ## The register port (spec/10_state.md, spec/20_memory.md, spec/70_reset_and_hazards.md) -/

/-- Power-on reset (R35, R190): what a host reads from each register, for any number of voices up to 32, and
every field of every voice; State.reset is that state for the default parameters. -/
def Obligations.ResetStateAsStated : Prop :=
  State.reset = State.powerOn 10 defaultWave ∧
  ∀ (n : Nat) (wave : Vector Entry 256), n ≤ 32 →
    let s := State.powerOn n wave
    s.regRead 0 = 0#32 ∧ s.regRead 1 = 0#32 ∧ s.regRead 2 = 0#32 ∧
    s.regRead 3 = BitVec.ofNat 32 (n * 256 + 255) ∧ s.regRead 4 = 0#32 ∧
    (∀ r, 5 ≤ r → r ≤ 10 → s.regRead r = 0#32) ∧
    s.hai = -1 ∧ s.wave = wave ∧ s.nVoices = n ∧
    ∀ i, i < n → s.voice i =
      { phase := 0#32, stepSize := 0#32, level := 0#32, envelopeState := .done, cyclesRemaining := 0#32,
        attackRate := 0#32, decayRate := 0#32, sustainLevel := 0#32, releaseRate := 0#32 }

/-- Power-on reset of a running bank (R190): it brings back the reset state; the parameters stay. That the
accesses to come and those observed stay too is the model's choice (log 10). -/
def Obligations.PowerOnResetRestoresResetState : Prop :=
  ∀ s : State, step (s.withNext .powerOnReset) =
    .next { State.powerOn s.nVoices s.wave with inputs := s.inputs, trace := s.trace }

/-- RegRead (R65): the value of each register; ACTIVE is the sum of 2^i over the voices that are not DONE; a
reserved number reads 0. -/
def Obligations.RegReadValues : Prop :=
  ∀ s : State,
    s.regRead 0 = s.cmd ∧ s.regRead 1 = s.result ∧ s.regRead 2 = s.rcode ∧
    s.regRead 3 = BitVec.ofNat 32 ((s.nVoices <<< 8) ||| (if s.hai = -1 then 0xFF else s.hai.toNat)) ∧
    s.regRead 4 = BitVec.ofNat 32
      (((List.range s.nVoices).map fun i =>
        if (s.voice i).envelopeState ≠ .done then 2 ^ i else 0).sum) ∧
    s.regRead 5 = s.freq ∧ s.regRead 6 = s.dur ∧ s.regRead 7 = s.atk ∧ s.regRead 8 = s.dcy ∧
    s.regRead 9 = s.sus ∧ s.regRead 10 = s.rls ∧ ∀ n, 11 ≤ n → s.regRead n = 0#32

/-- The views (R26): the three fields of STATUS, bit i of ACTIVE set exactly when voice i exists and is not DONE,
and a write of either is ignored. -/
def Obligations.StatusAndActiveFields : Prop :=
  ∀ s : State, s.WellSized →
    ((s.regRead 3).extractLsb' 0 8).toInt = s.hai ∧
    (0 ≤ s.hai → ((s.regRead 3).extractLsb' 0 8).toNat = s.hai.toNat) ∧
    (s.hai = -1 → (s.regRead 3).extractLsb' 0 8 = 0xFF#8) ∧
    ((s.regRead 3).extractLsb' 8 8).toNat = s.nVoices ∧
    (s.regRead 3).extractLsb' 16 16 = 0#16 ∧
    (∀ w, regWrite 3 w s = .next s ∧ regWrite 4 w s = .next s) ∧
    ∀ i : Nat, (s.regRead 4).getLsbD i = true ↔ i < s.nVoices ∧ (s.voice i).envelopeState ≠ .done

/-- RegWrite (R66): register 0 takes the word and executes it; 5 to 10 take it; 1 to 4 and the reserved numbers
change nothing. -/
def Obligations.RegWriteEffects : Prop :=
  ∀ (w : Word) (s : State),
    regWrite 0 w s = execute w { s with cmd := w } ∧
    (∀ n, 1 ≤ n → n ≤ 4 → regWrite n w s = .next s) ∧
    regWrite 5 w s = .next { s with freq := w } ∧ regWrite 6 w s = .next { s with dur := w } ∧
    regWrite 7 w s = .next { s with atk := w } ∧ regWrite 8 w s = .next { s with dcy := w } ∧
    regWrite 9 w s = .next { s with sus := w } ∧ regWrite 10 w s = .next { s with rls := w } ∧
    ∀ n, 11 ≤ n → regWrite n w s = .next s

/-- After any RegWrite, CMD and the operand registers read back what was written (R24, R59), and a write of an
operand register changes what no other register reads (R55). -/
def Obligations.WrittenRegistersReadBack : Prop :=
  ∀ (n : Nat) (w : Word) (s t : State), regWrite n w s = .next t →
    (n = 0 ∨ (5 ≤ n ∧ n ≤ 10) → t.regRead n = w) ∧
    (n ≠ 0 → ∀ m, m ≠ n → t.regRead m = s.regRead m)

/-- Reads have no side effect (R55): a read of any register changes nothing of the block, and a second read with no
write between returns the same value. -/
def Obligations.ReadsAreIdempotent : Prop :=
  ∀ (s : State) (n : Nat) (rest : List HostEvent), s.inputs = .read n :: .read n :: rest →
    ∃ t u, step s = .next t ∧ step t = .next u ∧
      t = { s with inputs := .read n :: rest, trace := .value (s.regRead n) :: s.trace } ∧
      u = { s with inputs := rest, trace := .value (s.regRead n) :: .value (s.regRead n) :: s.trace }

/-- The byte-addressed form (R53, R54): register n is the four bytes at offset 4n, little-endian, for a read and
for a write; an access of another width or at another offset has no meaning and is refused by name. For offsets
above 40 the model follows R56 where R54 would refuse (log 7). -/
def Obligations.BusAccessesAreWholeRegisters : Prop :=
  ∀ (s : State),
    (∀ n : Nat, hostAccess (.busRead (4 * n) 4) s =
      .next { s with trace := .bytes [(s.regRead n).extractLsb' 0 8, (s.regRead n).extractLsb' 8 8,
        (s.regRead n).extractLsb' 16 8, (s.regRead n).extractLsb' 24 8] :: s.trace }) ∧
    (∀ (n : Nat) (w : Word), hostAccess (.busWrite (4 * n)
      [w.extractLsb' 0 8, w.extractLsb' 8 8, w.extractLsb' 16 8, w.extractLsb' 24 8]) s =
      hostAccess (.write n w) s) ∧
    (∀ offset width : Nat, width ≠ 4 ∨ offset % 4 ≠ 0 →
      hostAccess (.busRead offset width) s = .refused (.undefinedAccess offset width)) ∧
    (∀ (offset : Nat) (bytes : List Byte), bytes.length ≠ 4 ∨ offset % 4 ≠ 0 →
      hostAccess (.busWrite offset bytes) s = .refused (.undefinedAccess offset bytes.length))

/-! ## The whole machine -/

/-- A step runs the decoded instruction: when the host's next access writes a command word to CMD, the step is exec
of that command in the state with the access taken and CMD written, and the host observes its response (R12, R24,
R70). -/
def Obligations.StepRunsTheDecodedCommand : Prop :=
  ∀ (s : State) (w : Word) (rest : List HostEvent) (i : Instr),
    s.inputs = .write 0 w :: rest → decode w = .instr i →
    ∃ t, exec i { s with cmd := w, inputs := rest } = .next t ∧
      step s = .next { t with trace := .response t.rcode t.result :: t.trace }

/-- With no access to serve, the block holds its state (R183, R192): the model's reading, log 6. -/
def Obligations.StepWaitsForTheHost : Prop := ∀ s : State, s.inputs = [] → step s = .next s

/-- Nothing traps and nothing stalls (R170): a step answers a next state unless the access it serves is a bus
access that is none to a whole register, and then it is refused with that access's offset and width (R54). That the
refusal has a name, and that offsets from 44 are none of these, is the model's (log 7). -/
def Obligations.OnlyUndefinedAccessesStop : Prop :=
  ∀ s : State,
    ((∃ t, step s = .next t) ∨
      ∃ (offset width : Nat) (rest : List HostEvent),
        (s.inputs = .busRead offset width :: rest ∨
          ∃ bytes : List Byte, bytes.length = width ∧ s.inputs = .busWrite offset bytes :: rest) ∧
        (width ≠ 4 ∨ offset % 4 ≠ 0) ∧ step s = .refused (.undefinedAccess offset width)) ∧
    (∀ (offset width : Nat) (rest : List HostEvent), s.inputs = .busRead offset width :: rest →
      width ≠ 4 ∨ offset % 4 ≠ 0 → step s = .refused (.undefinedAccess offset width)) ∧
    (∀ (offset : Nat) (bytes : List Byte) (rest : List HostEvent), s.inputs = .busWrite offset bytes :: rest →
      bytes.length ≠ 4 ∨ offset % 4 ≠ 0 → step s = .refused (.undefinedAccess offset bytes.length))

/-- The invariant of R25, R29, R30 and R31 holds at reset, for every bank that R7 admits. -/
def Obligations.ResetStateHasTheInvariant : Prop :=
  State.reset.Inv ∧ ∀ (n : Nat) (wave : Vector Entry 256), 1 ≤ n → n ≤ 32 → (State.powerOn n wave).Inv

/-- Every step keeps the invariant, from every state that has it. -/
def Obligations.EveryStepKeepsTheInvariant : Prop :=
  ∀ s t : State, s.Inv → step s = .next t → t.Inv

/-- The weak pool invariant (R30) and the voice invariant (R31), true in every reachable state: every voice above
HAI is DONE, and a DONE voice has level 0. -/
def Obligations.PoolAndVoiceInvariants : Prop :=
  ∀ s : State, Reachable s →
    (∀ i : Nat, s.hai < i → i < s.nVoices → (s.voice i).envelopeState = .done) ∧
    (∀ i : Nat, i < s.nVoices → (s.voice i).envelopeState = .done → (s.voice i).level = 0#32)

/-- Over any sequence of ALLOC, REL and ISDONE the strong pool property stays (R132). -/
def Obligations.StrongPoolUnderAllocRelIsdone : Prop :=
  ∀ (is : List Instr) (s t : State),
    (∀ i, i ∈ is → i = .alloc ∨ (∃ idx, i = .rel idx) ∨ ∃ idx, i = .isdone idx) →
    s.WellSized → s.StrongPool → execAll is s = .next t → t.WellSized ∧ t.StrongPool

/-- The strong pool property (R32): HAI is the greatest active index or NONE; it holds after reset, only MIX can
break it, MIX breaks it exactly when the voice at HAI becomes DONE during the mix, which it does in some state, and
RECLAIM of HAI restores it. -/
def Obligations.StrongPoolLostByMixAndRestoredByReclaim : Prop :=
  (∀ s : State, s.WellSized →
    (s.StrongPool ↔
      (s.hai = -1 ∧ ∀ i, i < s.nVoices → (s.voice i).envelopeState = .done) ∨
      ∃ m : Nat, s.hai = m ∧ m < s.nVoices ∧ (s.voice m).envelopeState ≠ .done ∧
        ∀ i, m < i → i < s.nVoices → (s.voice i).envelopeState = .done)) ∧
  (∀ (n : Nat) (wave : Vector Entry 256), (State.powerOn n wave).StrongPool) ∧
  (∀ (i : Instr) (s t : State), i ≠ .mix → s.WellSized → s.StrongPool → exec i s = .next t → t.StrongPool) ∧
  (∀ s t : State, s.WellSized → s.StrongPool → exec .mix s = .next t →
    (¬ t.StrongPool ↔ ∃ m : Nat, s.hai = m ∧ (s.voice m).envelopeState ≠ .done ∧
      (t.voice m).envelopeState = .done)) ∧
  (∃ s t : State, s.Inv ∧ s.StrongPool ∧ exec .mix s = .next t ∧ ¬ t.StrongPool) ∧
  (∀ (idx : BitVec 8) (s : State), s.WellSized → s.WeakPool → (idx.toNat : Int) = s.hai →
    ∃ t, exec (.reclaim idx) s = .next t ∧ t.StrongPool)

/-- No step changes the parameters: the number of voices and the table (R34, R51). -/
def Obligations.ParametersNeverChange : Prop :=
  ∀ s t : State, step s = .next t →
    t.nVoices = s.nVoices ∧ ∀ k : BitVec 8, waveEntry t.wave k = waveEntry s.wave k

/-- What no command can observe (R35's last rows, 93_implementation_defined.md U12): two states that differ only in
fields of voices that are DONE or RELEASED at level 0 answer every step alike, show the host the same, and go on
differing only there. -/
def Obligations.UnobservableFieldsStayUnobservable : Prop :=
  ∀ s t : State, s.Indistinct t →
    (∀ s', step s = .next s' → ∃ t', step t = .next t' ∧ s'.Indistinct t' ∧ s'.trace = t'.trace) ∧
    (∀ r, step s = .refused r → step t = .refused r)

/-- The reset values of the seven unobservable voice fields do not matter (R35, U12): a bank whose DONE voices at
level 0 hold anything else shows the host, over any number of steps and any accesses, what the reset bank shows. -/
def Obligations.ResetValuesOfVoiceFieldsDoNotMatter : Prop :=
  ∀ (n : Nat) (wave : Vector Entry 256) (inputs : List HostEvent) (vs : List Voice) (k : Nat) (s : State),
    vs.length = n → (∀ v, v ∈ vs → v.envelopeState = .done ∧ v.level = 0#32) →
    Host.Core.run core k { State.powerOn n wave with inputs := inputs } = .next s →
    ∃ t, Host.Core.run core k { State.powerOn n wave with inputs := inputs, voices := vs } = .next t ∧
      t.trace = s.trace

/-! ## The host's side (spec/42_host_contract.md) -/

/-- FREQ and DUR (R150, R151) are the floors of the exact quotients, for quantities within the contract. -/
def Obligations.FrequencyAndDurationAreFloors : Prop :=
  ∀ (fs : Nat) (q : Ratio), 0 < fs → 0 < q.den →
    (freqInRange fs q = true →
      ((freqWord fs q).toNat : Int) = ⌊((q.num : ℚ) / q.den) * 2 ^ 32 / fs⌋ ∧ (freqWord fs q).toNat ≤ 2 ^ 31) ∧
    (durInRange fs q = true →
      ((durWord fs q).toNat : Int) = ⌊((q.num : ℚ) / q.den) * fs⌋ ∧ (durWord fs q).toNat ≤ 2 ^ 31 - 1)

/-- SUS (R153): the floor of MAX_LEVEL times the fraction; a fraction of 0 gives 0, of 1 the full level. -/
def Obligations.SustainLevelIsAFloor : Prop :=
  (∀ sf : Ratio, 0 < sf.den → sf.num ≤ sf.den →
    ((susWord sf).toNat : Int) = ⌊(4294967295 : ℚ) * ((sf.num : ℚ) / sf.den)⌋) ∧
  (∀ d : Nat, 0 < d → susWord ⟨0, d⟩ = 0#32 ∧ susWord ⟨d, d⟩ = 0xFFFFFFFF#32) ∧
  susWord ⟨1, 2⟩ = 0x7FFFFFFF#32

/-- ATK, DCY and RLS (R154 to R156): the clamped floors of the exact quotients, and the largest rate for a time of
zero. -/
def Obligations.RatesAreClampedFloors : Prop :=
  ∀ (fs : Nat) (t : Ratio) (sus : Word), 0 < fs → 0 < t.den →
    (t.num = 0 → atkWord fs t = 0xFFFFFFFF#32 ∧ dcyWord fs t sus = 0xFFFFFFFF#32 ∧
      rlsWord fs t sus = 0xFFFFFFFF#32) ∧
    (0 < t.num →
      let quotient : Nat → Int := fun range => ⌊(range : ℚ) / (fs * ((t.num : ℚ) / t.den))⌋
      ((atkWord fs t).toNat : Int) = min (max (quotient 4294967295) 1) 4294967295 ∧
      ((dcyWord fs t sus).toNat : Int) = min (max (quotient (4294967295 - sus.toNat)) 1) 4294967295 ∧
      ((rlsWord fs t sus).toNat : Int) = min (max (quotient sus.toNat) 1) 4294967295)

/-- Every derived note is a valid tuple, so that every derived note ends: within the contract of R150 to R156 that
is R156's remark. The statement speaks of every `fs` and every description; outside the contract (`fs` 0, a
denominator 0, a fraction above 1) the spec derives no word and the words are the model's choice (log 12). -/
def Obligations.DerivedNotesEnd : Prop :=
  ∀ (fs : Nat) (n : NoteSpec),
    (deriveNote fs n).valid ∧
    ((Voice.reset (deriveNote fs n)).after (releaseSample (deriveNote fs n) +
      releaseSamples (deriveNote fs n).sus (deriveNote fs n).rls)).envelopeState = .done

/-- NOTE, one frame, and one fill (R78, R157). NOTE is ALLOC with the six words in the operand registers. One frame
plays a head `played` of the due notes: the NOTEs of `played`, in order, lead from `s` to `v`, each of them ending in
OK; if notes are left, the NOTE of the first of them ends in FAILURE with every voice active; then comes one MIX, and
the notes left stay due in their order. The frames of a fill run in turn, each with the notes left before it in front
of those that fall due at it, and give one sample each; then comes SWEEP, and from a state with the invariant HAI is
then the true maximum. That the notes falling due stand in lists, frame by frame, is the model's choice (log 18). -/
def Obligations.FrameKeepsUnplayedNotesInOrder : Prop :=
  (∀ (n : Note) (s : State), runEvents (noteEvents n) s =
    hostAccess (.write 0 0x00000001#32)
      { s with freq := n.freq, dur := n.dur, atk := n.atk, dcy := n.dcy, sus := n.sus, rls := n.rls }) ∧
  (∀ (due : List Note) (s : State), ∃ (v u t : State) (played rest : List Note),
    playFrame due s = .next (t, rest) ∧ due = played ++ rest ∧
    runEvents (played.flatMap noteEvents) s = .next v ∧
    (∀ k, k < played.length → ∃ w,
      runEvents ((played.take (k + 1)).flatMap noteEvents) s = .next w ∧ w.rcode = 0#32) ∧
    (rest = [] → u = v) ∧
    (∀ (n : Note) (later : List Note), rest = n :: later →
      runEvents (noteEvents n) v = .next u ∧ u.rcode = 1#32 ∧
      ∀ i, i < v.nVoices → (v.voice i).envelopeState ≠ .done) ∧
    hostAccess (.write 0 0x00000004#32) u = .next t) ∧
  (∀ (fresh due rest : List Note) (frames : List (List Note)) (s t : State) (f : Filled),
    playFrame (due ++ fresh) s = .next (t, rest) → playFrames frames rest t = .next f →
    playFrames (fresh :: frames) due s = .next { f with samples := t.result :: f.samples }) ∧
  (∀ (frames : List (List Note)) (due : List Note) (s : State), ∃ (f : Filled) (t : State) (played : List Note),
    playFrames frames due s = .next f ∧ sweep f.state = .next t ∧
    playFill frames due s = .next { f with state := t } ∧
    f.samples.length = frames.length ∧ due ++ frames.flatten = played ++ f.due ∧
    (s.Inv → t.StrongPool))

/-- The reclaim pass (R158): from a state with the invariant, the source's pass over 0 to HAI, in ascending or in
descending order, reaches the same HAI as SWEEP, and after each the strong pool property holds. -/
def Obligations.SweepEqualsTheReclaimPass : Prop :=
  ∀ s : State, s.Inv →
    ∃ t u p, sweep s = .next t ∧
      reclaimPass ((List.range s.visited).map (BitVec.ofNat 8)) s = .next u ∧
      reclaimPass ((List.range s.visited).reverse.map (BitVec.ofNat 8)) s = .next p ∧
      u.hai = t.hai ∧ p.hai = t.hai ∧ t.voices = s.voices ∧ u.voices = s.voices ∧ p.voices = s.voices ∧
      t.StrongPool ∧ u.StrongPool ∧ p.StrongPool

/-- The voice part of busy() (R159) is true exactly when some voice is active; HAI does not say so, since in some
good state no voice is active and STATUS shows a HAI. -/
def Obligations.BusyIsSomeVoiceActive : Prop :=
  (∀ s : State, s.nVoices ≤ 32 →
    (s.busy = true ↔ ∃ i, i < s.nVoices ∧ (s.voice i).envelopeState ≠ .done)) ∧
  (∃ s : State, s.Inv ∧ s.busy = false ∧ (s.regRead 3).extractLsb' 0 8 ≠ 0xFF#8)
end

