-- ==== Sys2Proof/Laws/Decode.lean ====
section
/-! SUPPORT. The fields of an assembled command word. -/

namespace Sys2Proof

/-- A command word as a number: the opcode in the low byte, the index in the next. -/
theorem commandWord_toNat (op idx : BitVec 8) : (commandWord op idx).toNat = idx.toNat * 256 + op.toNat := by
  rw [commandWord, BitVec.toNat_append, BitVec.toNat_append, ← Nat.shiftLeft_add_eq_or_of_lt op.isLt]
  simp [Nat.shiftLeft_eq]

theorem opField_toNat (w : Word) : (opField w).toNat = w.toNat % 256 := by
  simp [opField, BitVec.extractLsb'_toNat]

theorem idxField_toNat (w : Word) : (idxField w).toNat = w.toNat / 256 % 256 := by
  simp [idxField, BitVec.extractLsb'_toNat, Nat.shiftRight_eq_div_pow]

theorem rsvField_toNat (w : Word) : (rsvField w).toNat = w.toNat / 65536 := by
  have := w.isLt
  simp only [rsvField, BitVec.extractLsb'_toNat, Nat.shiftRight_eq_div_pow]
  omega

@[simp] theorem opField_commandWord (op idx : BitVec 8) : opField (commandWord op idx) = op := by
  have := op.isLt
  rw [BitVec.toNat_eq, opField_toNat, commandWord_toNat]; omega

@[simp] theorem idxField_commandWord (op idx : BitVec 8) : idxField (commandWord op idx) = idx := by
  have := op.isLt
  have := idx.isLt
  rw [BitVec.toNat_eq, idxField_toNat, commandWord_toNat]; omega

@[simp] theorem rsvField_commandWord (op idx : BitVec 8) : rsvField (commandWord op idx) = 0#16 := by
  have := op.isLt
  have := idx.isLt
  rw [BitVec.toNat_eq, rsvField_toNat, commandWord_toNat, BitVec.toNat_zero]; omega

/-- A command word is determined by its three fields. -/
theorem word_eq_of_fields {w x : Word} (ho : opField w = opField x) (hi : idxField w = idxField x)
    (hr : rsvField w = rsvField x) : w = x := by
  rw [BitVec.toNat_eq] at ho hi hr ⊢
  rw [opField_toNat, opField_toNat] at ho
  rw [idxField_toNat, idxField_toNat] at hi
  rw [rsvField_toNat, rsvField_toNat] at hr
  omega

theorem commandWord_of_fields {w : Word} (h : rsvField w = 0#16) :
    commandWord (opField w) (idxField w) = w :=
  word_eq_of_fields (by simp) (by simp) (by simp [h])

end Sys2Proof
end

