-- ==== Sys2Proof/Laws/State.lean ====
section
/-! SUPPORT. One lemma per field per named update of State, so that no later proof unfolds a record update. -/

namespace Sys2Proof.Machine

@[simp] theorem State.respond_cmd (s : State) (c : ResponseCode) (r : Word) : (s.respond c r).cmd = s.cmd := rfl
@[simp] theorem State.respond_result (s : State) (c : ResponseCode) (r : Word) : (s.respond c r).result = r := rfl
@[simp] theorem State.respond_rcode (s : State) (c : ResponseCode) (r : Word) : (s.respond c r).rcode = codeWord c := rfl
@[simp] theorem State.respond_freq (s : State) (c : ResponseCode) (r : Word) : (s.respond c r).freq = s.freq := rfl
@[simp] theorem State.respond_dur (s : State) (c : ResponseCode) (r : Word) : (s.respond c r).dur = s.dur := rfl
@[simp] theorem State.respond_atk (s : State) (c : ResponseCode) (r : Word) : (s.respond c r).atk = s.atk := rfl
@[simp] theorem State.respond_dcy (s : State) (c : ResponseCode) (r : Word) : (s.respond c r).dcy = s.dcy := rfl
@[simp] theorem State.respond_sus (s : State) (c : ResponseCode) (r : Word) : (s.respond c r).sus = s.sus := rfl
@[simp] theorem State.respond_rls (s : State) (c : ResponseCode) (r : Word) : (s.respond c r).rls = s.rls := rfl
@[simp] theorem State.respond_hai (s : State) (c : ResponseCode) (r : Word) : (s.respond c r).hai = s.hai := rfl
@[simp] theorem State.respond_voices (s : State) (c : ResponseCode) (r : Word) : (s.respond c r).voices = s.voices := rfl
@[simp] theorem State.respond_wave (s : State) (c : ResponseCode) (r : Word) : (s.respond c r).wave = s.wave := rfl
@[simp] theorem State.respond_inputs (s : State) (c : ResponseCode) (r : Word) : (s.respond c r).inputs = s.inputs := rfl
@[simp] theorem State.respond_trace (s : State) (c : ResponseCode) (r : Word) : (s.respond c r).trace = s.trace := rfl

@[simp] theorem State.fail_cmd (s : State) (c : ResponseCode) : (s.fail c).cmd = s.cmd := rfl
@[simp] theorem State.fail_result (s : State) (c : ResponseCode) : (s.fail c).result = Config.noResult := rfl
@[simp] theorem State.fail_rcode (s : State) (c : ResponseCode) : (s.fail c).rcode = codeWord c := rfl
@[simp] theorem State.fail_freq (s : State) (c : ResponseCode) : (s.fail c).freq = s.freq := rfl
@[simp] theorem State.fail_dur (s : State) (c : ResponseCode) : (s.fail c).dur = s.dur := rfl
@[simp] theorem State.fail_atk (s : State) (c : ResponseCode) : (s.fail c).atk = s.atk := rfl
@[simp] theorem State.fail_dcy (s : State) (c : ResponseCode) : (s.fail c).dcy = s.dcy := rfl
@[simp] theorem State.fail_sus (s : State) (c : ResponseCode) : (s.fail c).sus = s.sus := rfl
@[simp] theorem State.fail_rls (s : State) (c : ResponseCode) : (s.fail c).rls = s.rls := rfl
@[simp] theorem State.fail_hai (s : State) (c : ResponseCode) : (s.fail c).hai = s.hai := rfl
@[simp] theorem State.fail_voices (s : State) (c : ResponseCode) : (s.fail c).voices = s.voices := rfl
@[simp] theorem State.fail_wave (s : State) (c : ResponseCode) : (s.fail c).wave = s.wave := rfl
@[simp] theorem State.fail_inputs (s : State) (c : ResponseCode) : (s.fail c).inputs = s.inputs := rfl
@[simp] theorem State.fail_trace (s : State) (c : ResponseCode) : (s.fail c).trace = s.trace := rfl

@[simp] theorem State.setVoice_cmd (s : State) (i : Nat) (v : Voice) : (s.setVoice i v).cmd = s.cmd := rfl
@[simp] theorem State.setVoice_result (s : State) (i : Nat) (v : Voice) : (s.setVoice i v).result = s.result := rfl
@[simp] theorem State.setVoice_rcode (s : State) (i : Nat) (v : Voice) : (s.setVoice i v).rcode = s.rcode := rfl
@[simp] theorem State.setVoice_freq (s : State) (i : Nat) (v : Voice) : (s.setVoice i v).freq = s.freq := rfl
@[simp] theorem State.setVoice_dur (s : State) (i : Nat) (v : Voice) : (s.setVoice i v).dur = s.dur := rfl
@[simp] theorem State.setVoice_atk (s : State) (i : Nat) (v : Voice) : (s.setVoice i v).atk = s.atk := rfl
@[simp] theorem State.setVoice_dcy (s : State) (i : Nat) (v : Voice) : (s.setVoice i v).dcy = s.dcy := rfl
@[simp] theorem State.setVoice_sus (s : State) (i : Nat) (v : Voice) : (s.setVoice i v).sus = s.sus := rfl
@[simp] theorem State.setVoice_rls (s : State) (i : Nat) (v : Voice) : (s.setVoice i v).rls = s.rls := rfl
@[simp] theorem State.setVoice_hai (s : State) (i : Nat) (v : Voice) : (s.setVoice i v).hai = s.hai := rfl
@[simp] theorem State.setVoice_voices (s : State) (i : Nat) (v : Voice) : (s.setVoice i v).voices = s.voices.set i v := rfl
@[simp] theorem State.setVoice_wave (s : State) (i : Nat) (v : Voice) : (s.setVoice i v).wave = s.wave := rfl
@[simp] theorem State.setVoice_inputs (s : State) (i : Nat) (v : Voice) : (s.setVoice i v).inputs = s.inputs := rfl
@[simp] theorem State.setVoice_trace (s : State) (i : Nat) (v : Voice) : (s.setVoice i v).trace = s.trace := rfl

@[simp] theorem State.setHai_cmd (s : State) (h : Int) : (s.setHai h).cmd = s.cmd := rfl
@[simp] theorem State.setHai_result (s : State) (h : Int) : (s.setHai h).result = s.result := rfl
@[simp] theorem State.setHai_rcode (s : State) (h : Int) : (s.setHai h).rcode = s.rcode := rfl
@[simp] theorem State.setHai_freq (s : State) (h : Int) : (s.setHai h).freq = s.freq := rfl
@[simp] theorem State.setHai_dur (s : State) (h : Int) : (s.setHai h).dur = s.dur := rfl
@[simp] theorem State.setHai_atk (s : State) (h : Int) : (s.setHai h).atk = s.atk := rfl
@[simp] theorem State.setHai_dcy (s : State) (h : Int) : (s.setHai h).dcy = s.dcy := rfl
@[simp] theorem State.setHai_sus (s : State) (h : Int) : (s.setHai h).sus = s.sus := rfl
@[simp] theorem State.setHai_rls (s : State) (h : Int) : (s.setHai h).rls = s.rls := rfl
@[simp] theorem State.setHai_hai (s : State) (h : Int) : (s.setHai h).hai = h := rfl
@[simp] theorem State.setHai_voices (s : State) (h : Int) : (s.setHai h).voices = s.voices := rfl
@[simp] theorem State.setHai_wave (s : State) (h : Int) : (s.setHai h).wave = s.wave := rfl
@[simp] theorem State.setHai_inputs (s : State) (h : Int) : (s.setHai h).inputs = s.inputs := rfl
@[simp] theorem State.setHai_trace (s : State) (h : Int) : (s.setHai h).trace = s.trace := rfl

@[simp] theorem State.raiseHai_cmd (s : State) (i : Nat) : (s.raiseHai i).cmd = s.cmd := rfl
@[simp] theorem State.raiseHai_result (s : State) (i : Nat) : (s.raiseHai i).result = s.result := rfl
@[simp] theorem State.raiseHai_rcode (s : State) (i : Nat) : (s.raiseHai i).rcode = s.rcode := rfl
@[simp] theorem State.raiseHai_freq (s : State) (i : Nat) : (s.raiseHai i).freq = s.freq := rfl
@[simp] theorem State.raiseHai_dur (s : State) (i : Nat) : (s.raiseHai i).dur = s.dur := rfl
@[simp] theorem State.raiseHai_atk (s : State) (i : Nat) : (s.raiseHai i).atk = s.atk := rfl
@[simp] theorem State.raiseHai_dcy (s : State) (i : Nat) : (s.raiseHai i).dcy = s.dcy := rfl
@[simp] theorem State.raiseHai_sus (s : State) (i : Nat) : (s.raiseHai i).sus = s.sus := rfl
@[simp] theorem State.raiseHai_rls (s : State) (i : Nat) : (s.raiseHai i).rls = s.rls := rfl
@[simp] theorem State.raiseHai_hai (s : State) (i : Nat) : (s.raiseHai i).hai = max s.hai i := rfl
@[simp] theorem State.raiseHai_voices (s : State) (i : Nat) : (s.raiseHai i).voices = s.voices := rfl
@[simp] theorem State.raiseHai_wave (s : State) (i : Nat) : (s.raiseHai i).wave = s.wave := rfl
@[simp] theorem State.raiseHai_inputs (s : State) (i : Nat) : (s.raiseHai i).inputs = s.inputs := rfl
@[simp] theorem State.raiseHai_trace (s : State) (i : Nat) : (s.raiseHai i).trace = s.trace := rfl

@[simp] theorem State.setCmd_cmd (s : State) (w : Word) : (s.setCmd w).cmd = w := rfl
@[simp] theorem State.setCmd_result (s : State) (w : Word) : (s.setCmd w).result = s.result := rfl
@[simp] theorem State.setCmd_rcode (s : State) (w : Word) : (s.setCmd w).rcode = s.rcode := rfl
@[simp] theorem State.setCmd_freq (s : State) (w : Word) : (s.setCmd w).freq = s.freq := rfl
@[simp] theorem State.setCmd_dur (s : State) (w : Word) : (s.setCmd w).dur = s.dur := rfl
@[simp] theorem State.setCmd_atk (s : State) (w : Word) : (s.setCmd w).atk = s.atk := rfl
@[simp] theorem State.setCmd_dcy (s : State) (w : Word) : (s.setCmd w).dcy = s.dcy := rfl
@[simp] theorem State.setCmd_sus (s : State) (w : Word) : (s.setCmd w).sus = s.sus := rfl
@[simp] theorem State.setCmd_rls (s : State) (w : Word) : (s.setCmd w).rls = s.rls := rfl
@[simp] theorem State.setCmd_hai (s : State) (w : Word) : (s.setCmd w).hai = s.hai := rfl
@[simp] theorem State.setCmd_voices (s : State) (w : Word) : (s.setCmd w).voices = s.voices := rfl
@[simp] theorem State.setCmd_wave (s : State) (w : Word) : (s.setCmd w).wave = s.wave := rfl
@[simp] theorem State.setCmd_inputs (s : State) (w : Word) : (s.setCmd w).inputs = s.inputs := rfl
@[simp] theorem State.setCmd_trace (s : State) (w : Word) : (s.setCmd w).trace = s.trace := rfl

@[simp] theorem State.setInputs_cmd (s : State) (es : List HostEvent) : (s.setInputs es).cmd = s.cmd := rfl
@[simp] theorem State.setInputs_result (s : State) (es : List HostEvent) : (s.setInputs es).result = s.result := rfl
@[simp] theorem State.setInputs_rcode (s : State) (es : List HostEvent) : (s.setInputs es).rcode = s.rcode := rfl
@[simp] theorem State.setInputs_freq (s : State) (es : List HostEvent) : (s.setInputs es).freq = s.freq := rfl
@[simp] theorem State.setInputs_dur (s : State) (es : List HostEvent) : (s.setInputs es).dur = s.dur := rfl
@[simp] theorem State.setInputs_atk (s : State) (es : List HostEvent) : (s.setInputs es).atk = s.atk := rfl
@[simp] theorem State.setInputs_dcy (s : State) (es : List HostEvent) : (s.setInputs es).dcy = s.dcy := rfl
@[simp] theorem State.setInputs_sus (s : State) (es : List HostEvent) : (s.setInputs es).sus = s.sus := rfl
@[simp] theorem State.setInputs_rls (s : State) (es : List HostEvent) : (s.setInputs es).rls = s.rls := rfl
@[simp] theorem State.setInputs_hai (s : State) (es : List HostEvent) : (s.setInputs es).hai = s.hai := rfl
@[simp] theorem State.setInputs_voices (s : State) (es : List HostEvent) : (s.setInputs es).voices = s.voices := rfl
@[simp] theorem State.setInputs_wave (s : State) (es : List HostEvent) : (s.setInputs es).wave = s.wave := rfl
@[simp] theorem State.setInputs_inputs (s : State) (es : List HostEvent) : (s.setInputs es).inputs = es := rfl
@[simp] theorem State.setInputs_trace (s : State) (es : List HostEvent) : (s.setInputs es).trace = s.trace := rfl

@[simp] theorem State.observe_cmd (s : State) (o : Observation) : (s.observe o).cmd = s.cmd := rfl
@[simp] theorem State.observe_result (s : State) (o : Observation) : (s.observe o).result = s.result := rfl
@[simp] theorem State.observe_rcode (s : State) (o : Observation) : (s.observe o).rcode = s.rcode := rfl
@[simp] theorem State.observe_freq (s : State) (o : Observation) : (s.observe o).freq = s.freq := rfl
@[simp] theorem State.observe_dur (s : State) (o : Observation) : (s.observe o).dur = s.dur := rfl
@[simp] theorem State.observe_atk (s : State) (o : Observation) : (s.observe o).atk = s.atk := rfl
@[simp] theorem State.observe_dcy (s : State) (o : Observation) : (s.observe o).dcy = s.dcy := rfl
@[simp] theorem State.observe_sus (s : State) (o : Observation) : (s.observe o).sus = s.sus := rfl
@[simp] theorem State.observe_rls (s : State) (o : Observation) : (s.observe o).rls = s.rls := rfl
@[simp] theorem State.observe_hai (s : State) (o : Observation) : (s.observe o).hai = s.hai := rfl
@[simp] theorem State.observe_voices (s : State) (o : Observation) : (s.observe o).voices = s.voices := rfl
@[simp] theorem State.observe_wave (s : State) (o : Observation) : (s.observe o).wave = s.wave := rfl
@[simp] theorem State.observe_inputs (s : State) (o : Observation) : (s.observe o).inputs = s.inputs := rfl
@[simp] theorem State.observe_trace (s : State) (o : Observation) : (s.observe o).trace = o :: s.trace := rfl

@[simp] theorem State.advanceVisited_cmd (s : State) : s.advanceVisited.cmd = s.cmd := rfl
@[simp] theorem State.advanceVisited_result (s : State) : s.advanceVisited.result = s.result := rfl
@[simp] theorem State.advanceVisited_rcode (s : State) : s.advanceVisited.rcode = s.rcode := rfl
@[simp] theorem State.advanceVisited_freq (s : State) : s.advanceVisited.freq = s.freq := rfl
@[simp] theorem State.advanceVisited_dur (s : State) : s.advanceVisited.dur = s.dur := rfl
@[simp] theorem State.advanceVisited_atk (s : State) : s.advanceVisited.atk = s.atk := rfl
@[simp] theorem State.advanceVisited_dcy (s : State) : s.advanceVisited.dcy = s.dcy := rfl
@[simp] theorem State.advanceVisited_sus (s : State) : s.advanceVisited.sus = s.sus := rfl
@[simp] theorem State.advanceVisited_rls (s : State) : s.advanceVisited.rls = s.rls := rfl
@[simp] theorem State.advanceVisited_hai (s : State) : s.advanceVisited.hai = s.hai := rfl
@[simp] theorem State.advanceVisited_voices (s : State) : s.advanceVisited.voices = advanceVoices s.visited s.voices := rfl
@[simp] theorem State.advanceVisited_wave (s : State) : s.advanceVisited.wave = s.wave := rfl
@[simp] theorem State.advanceVisited_inputs (s : State) : s.advanceVisited.inputs = s.inputs := rfl
@[simp] theorem State.advanceVisited_trace (s : State) : s.advanceVisited.trace = s.trace := rfl

@[simp] theorem State.powerCycle_cmd (s : State) : s.powerCycle.cmd = 0#32 := rfl
@[simp] theorem State.powerCycle_result (s : State) : s.powerCycle.result = 0#32 := rfl
@[simp] theorem State.powerCycle_rcode (s : State) : s.powerCycle.rcode = 0#32 := rfl
@[simp] theorem State.powerCycle_freq (s : State) : s.powerCycle.freq = 0#32 := rfl
@[simp] theorem State.powerCycle_dur (s : State) : s.powerCycle.dur = 0#32 := rfl
@[simp] theorem State.powerCycle_atk (s : State) : s.powerCycle.atk = 0#32 := rfl
@[simp] theorem State.powerCycle_dcy (s : State) : s.powerCycle.dcy = 0#32 := rfl
@[simp] theorem State.powerCycle_sus (s : State) : s.powerCycle.sus = 0#32 := rfl
@[simp] theorem State.powerCycle_rls (s : State) : s.powerCycle.rls = 0#32 := rfl
@[simp] theorem State.powerCycle_hai (s : State) : s.powerCycle.hai = -1 := rfl
@[simp] theorem State.powerCycle_voices (s : State) : s.powerCycle.voices = List.replicate s.nVoices Voice.free := rfl
@[simp] theorem State.powerCycle_wave (s : State) : s.powerCycle.wave = s.wave := rfl
@[simp] theorem State.powerCycle_inputs (s : State) : s.powerCycle.inputs = s.inputs := rfl
@[simp] theorem State.powerCycle_trace (s : State) : s.powerCycle.trace = s.trace := rfl

/-! A write of an operand register, by number: it writes that register and no other field. -/

@[simp] theorem State.setOperand_cmd (s : State) (n : Nat) (w : Word) : (s.setOperand n w).cmd = s.cmd := by
  unfold State.setOperand; split <;> rfl
@[simp] theorem State.setOperand_result (s : State) (n : Nat) (w : Word) : (s.setOperand n w).result = s.result := by
  unfold State.setOperand; split <;> rfl
@[simp] theorem State.setOperand_rcode (s : State) (n : Nat) (w : Word) : (s.setOperand n w).rcode = s.rcode := by
  unfold State.setOperand; split <;> rfl
@[simp] theorem State.setOperand_freq (s : State) (n : Nat) (w : Word) :
    (s.setOperand n w).freq = if n = 5 then w else s.freq := by
  unfold State.setOperand; split <;> simp_all
@[simp] theorem State.setOperand_dur (s : State) (n : Nat) (w : Word) :
    (s.setOperand n w).dur = if n = 6 then w else s.dur := by
  unfold State.setOperand; split <;> simp_all
@[simp] theorem State.setOperand_atk (s : State) (n : Nat) (w : Word) :
    (s.setOperand n w).atk = if n = 7 then w else s.atk := by
  unfold State.setOperand; split <;> simp_all
@[simp] theorem State.setOperand_dcy (s : State) (n : Nat) (w : Word) :
    (s.setOperand n w).dcy = if n = 8 then w else s.dcy := by
  unfold State.setOperand; split <;> simp_all
@[simp] theorem State.setOperand_sus (s : State) (n : Nat) (w : Word) :
    (s.setOperand n w).sus = if n = 9 then w else s.sus := by
  unfold State.setOperand; split <;> simp_all
@[simp] theorem State.setOperand_rls (s : State) (n : Nat) (w : Word) :
    (s.setOperand n w).rls = if n = 10 then w else s.rls := by
  unfold State.setOperand; split <;> simp_all
@[simp] theorem State.setOperand_hai (s : State) (n : Nat) (w : Word) : (s.setOperand n w).hai = s.hai := by
  unfold State.setOperand; split <;> rfl
@[simp] theorem State.setOperand_voices (s : State) (n : Nat) (w : Word) : (s.setOperand n w).voices = s.voices := by
  unfold State.setOperand; split <;> rfl
@[simp] theorem State.setOperand_wave (s : State) (n : Nat) (w : Word) : (s.setOperand n w).wave = s.wave := by
  unfold State.setOperand; split <;> rfl
@[simp] theorem State.setOperand_inputs (s : State) (n : Nat) (w : Word) : (s.setOperand n w).inputs = s.inputs := by
  unfold State.setOperand; split <;> rfl
@[simp] theorem State.setOperand_trace (s : State) (n : Nat) (w : Word) : (s.setOperand n w).trace = s.trace := by
  unfold State.setOperand; split <;> rfl

end Sys2Proof.Machine
end

