-- ==== Sys2Proof/Laws/Voice.lean ====
section
/-! SUPPORT. The micro-operations of a voice: what each does, field by field, so that a proof about a note never
unfolds them. -/

namespace Sys2Proof.Machine

@[simp] theorem Voice.isDone_iff (v : Voice) : v.isDone = true ↔ v.envelopeState = .done := by
  simp [Voice.isDone]

@[simp] theorem Voice.not_isDone_iff (v : Voice) : v.isDone = false ↔ v.envelopeState ≠ .done := by
  simp [Voice.isDone]

@[simp] theorem Voice.free_isDone : Voice.free.isDone = true := rfl
@[simp] theorem Voice.reset_isDone (n : Note) : (Voice.reset n).isDone = false := rfl
@[simp] theorem Voice.release_isDone (v : Voice) : v.release.isDone = false := rfl
@[simp] theorem Voice.release_level (v : Voice) : v.release.level = v.level := rfl
@[simp] theorem Voice.release_envelopeState (v : Voice) : v.release.envelopeState = .released := rfl

/-! The boundary conditions as comparisons. -/

theorem attackCarry_iff (l r : Word) : attackCarry l r = true ↔ 4294967295 < l.toNat + r.toNat := by
  exact decide_eq_true_iff

theorem decayReached_iff (l r t : Word) :
    decayReached l r t = true ↔ l.toNat < r.toNat ∨ l.toNat - r.toNat ≤ t.toNat := by
  simp [decayReached]

theorem releaseReached_iff (l r : Word) : releaseReached l r = true ↔ l.toNat ≤ r.toNat := by
  simp [releaseReached]

theorem durationElapsed_iff (c : Word) : durationElapsed c = true ↔ c.toInt ≤ 0 := by
  simp [durationElapsed]

/-- The value of the counter after one decrement: it never wraps. -/
theorem countDown_toInt (c : Word) : (countDown c).toInt = max (c.toInt - 1) (-2147483648) := by
  have h1 := BitVec.toInt_lt (x := c)
  have h2 := BitVec.le_toInt (x := c)
  norm_num at h1 h2
  rw [countDown, toU32, BitVec.toInt_ofInt, Config.int32Min, Int.bmod_eq_of_le]
  all_goals norm_num
  all_goals omega

theorem afterDecay_done_iff (t : Word) : afterDecay t = .done ↔ t = 0#32 := by
  simp [afterDecay, Config.sustainZero, BitVec.toNat_eq]

/-! What an envelope step does in each state. -/

theorem Voice.envStep_rising_carry {v : Voice} (h : v.envelopeState = .rising)
    (c : 4294967295 < v.level.toNat + v.attackRate.toNat) :
    v.envStep = { v with level := 0xFFFFFFFF#32, envelopeState := .falling } := by
  simp [Voice.envStep, h, (attackCarry_iff _ _).2 c, Config.maxLevel]

theorem Voice.envStep_rising {v : Voice} (h : v.envelopeState = .rising)
    (c : v.level.toNat + v.attackRate.toNat ≤ 4294967295) :
    v.envStep = { v with level := v.level + v.attackRate } := by
  have : ¬ attackCarry v.level v.attackRate = true := by rw [attackCarry_iff]; omega
  simp [Voice.envStep, h, this]

theorem Voice.envStep_falling_reached {v : Voice} (h : v.envelopeState = .falling)
    (c : v.level.toNat < v.decayRate.toNat ∨ v.level.toNat - v.decayRate.toNat ≤ v.sustainLevel.toNat) :
    v.envStep = { v with level := v.sustainLevel, envelopeState := afterDecay v.sustainLevel } := by
  simp [Voice.envStep, h, (decayReached_iff _ _ _).2 c]

theorem Voice.envStep_falling {v : Voice} (h : v.envelopeState = .falling)
    (c : v.decayRate.toNat ≤ v.level.toNat) (d : v.sustainLevel.toNat < v.level.toNat - v.decayRate.toNat) :
    v.envStep = { v with level := v.level - v.decayRate } := by
  have : ¬ decayReached v.level v.decayRate v.sustainLevel = true := by rw [decayReached_iff]; omega
  simp [Voice.envStep, h, this]

theorem Voice.envStep_sustain_elapsed {v : Voice} (h : v.envelopeState = .sustain)
    (c : v.cyclesRemaining.toInt ≤ 0) : v.envStep = { v with envelopeState := .released } := by
  simp [Voice.envStep, h, (durationElapsed_iff _).2 c]

theorem Voice.envStep_sustain {v : Voice} (h : v.envelopeState = .sustain)
    (c : 0 < v.cyclesRemaining.toInt) : v.envStep = v := by
  have : ¬ durationElapsed v.cyclesRemaining = true := by rw [durationElapsed_iff]; omega
  simp [Voice.envStep, h, this]

theorem Voice.envStep_released_reached {v : Voice} (h : v.envelopeState = .released)
    (c : v.level.toNat ≤ v.releaseRate.toNat) :
    v.envStep = { v with level := 0#32, envelopeState := .done } := by
  simp [Voice.envStep, h, (releaseReached_iff _ _).2 c]

theorem Voice.envStep_released {v : Voice} (h : v.envelopeState = .released)
    (c : v.releaseRate.toNat < v.level.toNat) :
    v.envStep = { v with level := v.level - v.releaseRate } := by
  have : ¬ releaseReached v.level v.releaseRate = true := by rw [releaseReached_iff]; omega
  simp [Voice.envStep, h, this]

theorem Voice.envStep_done {v : Voice} (h : v.envelopeState = .done) : v.envStep = { v with level := 0#32 } := by
  simp [Voice.envStep, h]

/-! An envelope step writes the level and the state only. -/

@[simp] theorem Voice.envStep_phase (v : Voice) : v.envStep.phase = v.phase := by
  unfold Voice.envStep; repeat' split
  all_goals rfl
@[simp] theorem Voice.envStep_stepSize (v : Voice) : v.envStep.stepSize = v.stepSize := by
  unfold Voice.envStep; repeat' split
  all_goals rfl
@[simp] theorem Voice.envStep_cyclesRemaining (v : Voice) : v.envStep.cyclesRemaining = v.cyclesRemaining := by
  unfold Voice.envStep; repeat' split
  all_goals rfl
@[simp] theorem Voice.envStep_attackRate (v : Voice) : v.envStep.attackRate = v.attackRate := by
  unfold Voice.envStep; repeat' split
  all_goals rfl
@[simp] theorem Voice.envStep_decayRate (v : Voice) : v.envStep.decayRate = v.decayRate := by
  unfold Voice.envStep; repeat' split
  all_goals rfl
@[simp] theorem Voice.envStep_sustainLevel (v : Voice) : v.envStep.sustainLevel = v.sustainLevel := by
  unfold Voice.envStep; repeat' split
  all_goals rfl
@[simp] theorem Voice.envStep_releaseRate (v : Voice) : v.envStep.releaseRate = v.releaseRate := by
  unfold Voice.envStep; repeat' split
  all_goals rfl

/-! One sample: nothing on a DONE voice; on any other voice, each field. -/

theorem Voice.advance_of_done {v : Voice} (h : v.envelopeState = .done) : v.advance = v := by
  simp [Voice.advance, h]

theorem Voice.sample_of_done (wave : Vector Entry 256) {v : Voice} (h : v.envelopeState = .done) :
    v.sample wave = 0 := by
  simp [Voice.sample, h]

theorem Voice.advance_of_active {v : Voice} (h : v.envelopeState ≠ .done) :
    v.advance = { v.envStep with
      phase := v.phase + v.stepSize, cyclesRemaining := countDown v.cyclesRemaining } := by
  simp [Voice.advance, h]

theorem Voice.sample_of_active (wave : Vector Entry 256) {v : Voice} (h : v.envelopeState ≠ .done) :
    v.sample wave = sampleAt wave (v.phase + v.stepSize) v.envStep.level := by
  simp [Voice.sample, Voice.advance, h]

@[simp] theorem Voice.free_advance : Voice.free.advance = Voice.free := rfl

@[simp] theorem Voice.advance_stepSize (v : Voice) : v.advance.stepSize = v.stepSize := by
  unfold Voice.advance; split <;> simp
@[simp] theorem Voice.advance_attackRate (v : Voice) : v.advance.attackRate = v.attackRate := by
  unfold Voice.advance; split <;> simp
@[simp] theorem Voice.advance_decayRate (v : Voice) : v.advance.decayRate = v.decayRate := by
  unfold Voice.advance; split <;> simp
@[simp] theorem Voice.advance_sustainLevel (v : Voice) : v.advance.sustainLevel = v.sustainLevel := by
  unfold Voice.advance; split <;> simp
@[simp] theorem Voice.advance_releaseRate (v : Voice) : v.advance.releaseRate = v.releaseRate := by
  unfold Voice.advance; split <;> simp

/-- A DONE voice is fixed under any number of samples. -/
theorem Voice.after_of_done {v : Voice} (h : v.envelopeState = .done) (n : Nat) : v.after n = v := by
  induction n with
  | zero => rfl
  | succ n ih => rw [Voice.after, Voice.advance_of_done h, ih]

theorem Voice.after_add (v : Voice) (m n : Nat) : v.after (m + n) = (v.after m).after n := by
  induction m generalizing v with
  | zero => simp [Voice.after]
  | succ m ih => rw [Nat.succ_add]; exact ih v.advance

theorem Voice.after_succ (v : Voice) (n : Nat) : v.after (n + 1) = (v.after n).advance := by
  rw [Voice.after_add]; rfl

/-- At level 0 the sample is 0, whatever the table holds. -/
theorem sampleAt_level_zero (wave : Vector Entry 256) (phase : Word) : sampleAt wave phase 0#32 = 0 := by
  simp [sampleAt, gain]

theorem gain_eq (l : Word) : gain l = l.toNat / 65536 := by
  simp [gain, Config.gainShift, Nat.shiftRight_eq_div_pow]

/-! The saturating adder (R126). -/

theorem satadd32_range (a b : Int) : -2147483648 ≤ satadd32 a b ∧ satadd32 a b ≤ 2147483647 := by
  simp only [satadd32, Config.int32Max, Config.int32Min]; omega

theorem satadd32_zero {a : Int} (lo : -2147483648 ≤ a) (hi : a ≤ 2147483647) : satadd32 a 0 = a := by
  simp only [satadd32, Config.int32Max, Config.int32Min]; omega

/-! The codes of the envelope states (R28). -/

theorem envelopeCode_le (e : EnvelopeState) : (envelopeCode e).toNat ≤ 4 := by
  cases e <;> decide

theorem envelopeCode_injective {e f : EnvelopeState} (h : envelopeCode e = envelopeCode f) : e = f := by
  cases e <;> cases f <;> first | rfl | (revert h; decide)

end Sys2Proof.Machine
end

