-- ==== Sys2Proof/Laws/Ops.lean ====
section
/-! SUPPORT. The shared operations over the pool: what each does to the number of voices and to each voice, and
one lemma per scan that says everything it can answer. -/

namespace Sys2Proof.Machine

/-! Updates that write no voice. -/

@[simp] theorem State.respond_nVoices (s : State) (c : ResponseCode) (r : Word) : (s.respond c r).nVoices = s.nVoices := rfl
@[simp] theorem State.fail_nVoices (s : State) (c : ResponseCode) : (s.fail c).nVoices = s.nVoices := rfl
@[simp] theorem State.setHai_nVoices (s : State) (h : Int) : (s.setHai h).nVoices = s.nVoices := rfl
@[simp] theorem State.raiseHai_nVoices (s : State) (i : Nat) : (s.raiseHai i).nVoices = s.nVoices := rfl
@[simp] theorem State.setCmd_nVoices (s : State) (w : Word) : (s.setCmd w).nVoices = s.nVoices := rfl
@[simp] theorem State.setInputs_nVoices (s : State) (es : List HostEvent) : (s.setInputs es).nVoices = s.nVoices := rfl
@[simp] theorem State.observe_nVoices (s : State) (o : Observation) : (s.observe o).nVoices = s.nVoices := rfl
@[simp] theorem State.setOperand_nVoices (s : State) (n : Nat) (w : Word) : (s.setOperand n w).nVoices = s.nVoices := by
  simp [State.nVoices]

@[simp] theorem State.respond_voice (s : State) (c : ResponseCode) (r : Word) (j : Nat) : (s.respond c r).voice j = s.voice j := rfl
@[simp] theorem State.fail_voice (s : State) (c : ResponseCode) (j : Nat) : (s.fail c).voice j = s.voice j := rfl
@[simp] theorem State.setHai_voice (s : State) (h : Int) (j : Nat) : (s.setHai h).voice j = s.voice j := rfl
@[simp] theorem State.raiseHai_voice (s : State) (i j : Nat) : (s.raiseHai i).voice j = s.voice j := rfl
@[simp] theorem State.setCmd_voice (s : State) (w : Word) (j : Nat) : (s.setCmd w).voice j = s.voice j := rfl
@[simp] theorem State.setInputs_voice (s : State) (es : List HostEvent) (j : Nat) : (s.setInputs es).voice j = s.voice j := rfl
@[simp] theorem State.observe_voice (s : State) (o : Observation) (j : Nat) : (s.observe o).voice j = s.voice j := rfl
@[simp] theorem State.setOperand_voice (s : State) (n : Nat) (w : Word) (j : Nat) : (s.setOperand n w).voice j = s.voice j := by
  simp [State.voice]

/-! Reading a voice after writing one. -/

@[simp] theorem State.setVoice_nVoices (s : State) (i : Nat) (v : Voice) : (s.setVoice i v).nVoices = s.nVoices := by
  simp [State.nVoices]

theorem State.voice_beyond {s : State} {j : Nat} (h : s.nVoices ≤ j) : s.voice j = Voice.free := by
  simp [State.voice, List.getD_eq_getElem?_getD, List.getElem?_eq_none (show s.voices.length ≤ j from h)]

theorem State.setVoice_voice (s : State) (i : Nat) (v : Voice) (j : Nat) :
    (s.setVoice i v).voice j = if j = i ∧ i < s.nVoices then v else s.voice j := by
  simp only [State.voice, State.nVoices, State.setVoice_voices, List.getD_eq_getElem?_getD, List.getElem?_set]
  by_cases h : j = i
  · subst h; by_cases l : j < s.voices.length <;> simp [l]
  · simp [h, Ne.symm h]

theorem State.setVoice_voice_ne {s : State} {i j : Nat} (v : Voice) (h : j ≠ i) :
    (s.setVoice i v).voice j = s.voice j := by
  simp [State.setVoice_voice, h]

theorem State.setVoice_voice_self {s : State} {i : Nat} (v : Voice) (h : i < s.nVoices) :
    (s.setVoice i v).voice i = v := by
  simp [State.setVoice_voice, h]

/-! The samples of MIX. -/

@[simp] theorem advanceVoices_length (k : Nat) (vs : List Voice) : (advanceVoices k vs).length = vs.length := by
  induction vs generalizing k with
  | nil => cases k <;> rfl
  | cons v vs ih => cases k <;> simp [advanceVoices, ih]

theorem advanceVoices_getD (k : Nat) (vs : List Voice) (j : Nat) :
    (advanceVoices k vs).getD j Voice.free =
      if j < k then (vs.getD j Voice.free).advance else vs.getD j Voice.free := by
  induction vs generalizing k j with
  | nil => cases k <;> simp [advanceVoices]
  | cons v vs ih =>
    cases k with
    | zero => simp [advanceVoices]
    | succ k =>
      cases j with
      | zero => simp [advanceVoices]
      | succ j => simpa [advanceVoices] using ih k j

@[simp] theorem State.advanceVisited_nVoices (s : State) : s.advanceVisited.nVoices = s.nVoices := by
  simp [State.nVoices]

theorem State.advanceVisited_voice (s : State) (j : Nat) :
    s.advanceVisited.voice j = if j < s.visited then (s.voice j).advance else s.voice j :=
  advanceVoices_getD _ _ _

/-! The two scans. -/

theorem State.firstFree_eq_none {s : State} :
    s.firstFree = none ↔ ∀ j, j < s.nVoices → (s.voice j).isDone = false := by
  simp only [State.firstFree, List.findIdx?_eq_none_iff, State.nVoices, State.voice]
  constructor
  · intro h j hj
    have := h s.voices[j] (List.getElem_mem hj)
    simpa [List.getD_eq_getElem?_getD, hj] using this
  · intro h v hv
    obtain ⟨j, hj, rfl⟩ := List.mem_iff_getElem.1 hv
    simpa [List.getD_eq_getElem?_getD, hj] using h j hj

theorem State.firstFree_eq_some {s : State} {i : Nat} :
    s.firstFree = some i ↔
      i < s.nVoices ∧ (s.voice i).isDone = true ∧ ∀ j, j < i → (s.voice j).isDone = false := by
  simp only [State.firstFree, List.findIdx?_eq_some_iff_getElem, State.nVoices, State.voice]
  constructor
  · rintro ⟨hi, hd, hb⟩
    refine ⟨hi, by simpa [List.getD_eq_getElem?_getD, hi] using hd, fun j hj => ?_⟩
    simpa [List.getD_eq_getElem?_getD, Nat.lt_trans hj hi] using hb j hj
  · rintro ⟨hi, hd, hb⟩
    refine ⟨hi, by simpa [List.getD_eq_getElem?_getD, hi] using hd, fun j hj => ?_⟩
    simpa [List.getD_eq_getElem?_getD, Nat.lt_trans hj hi] using hb j hj

/-- Everything the downward scan can answer: the greatest index below `k` with an active voice, or -1. -/
theorem State.scanDown_spec (s : State) (k : Nat) :
    -1 ≤ s.scanDown k ∧ s.scanDown k < k ∧
      (∀ j : Nat, s.scanDown k < j → j < k → (s.voice j).isDone = true) ∧
      (0 ≤ s.scanDown k → (s.voice (s.scanDown k).toNat).isDone = false) := by
  induction k with
  | zero => refine ⟨by simp [State.scanDown], by simp [State.scanDown], fun j _ h => absurd h (Nat.not_lt_zero j), fun h => ?_⟩
            simp [State.scanDown] at h
  | succ k ih =>
    obtain ⟨lo, hi, above, at'⟩ := ih
    by_cases d : (s.voice k).isDone = true
    · have e : s.scanDown (k + 1) = s.scanDown k := by rw [State.scanDown, if_pos d]
      refine e ▸ ⟨lo, by push_cast; omega, fun j h1 h2 => ?_, at'⟩
      rcases Nat.lt_succ_iff_lt_or_eq.1 h2 with h | rfl
      · exact above j h1 h
      · exact d
    · have e : s.scanDown (k + 1) = (k : Int) := by rw [State.scanDown, if_neg d]
      refine e ▸ ⟨by omega, by push_cast; omega, fun j h1 h2 => by omega, fun _ => by simpa using d⟩

end Sys2Proof.Machine
end

