-- ==== Sys2Proof/Laws/PerInstr.lean ====
section
/-! SUPPORT. MatchMask: the command word of each command has the bits that the command's row of the opcode map
fixes (spec/30_encoding.md R72). -/

namespace Sys2Proof

/-- A word under the mask of an indexed row keeps its opcode and its reserved bits. -/
theorem commandWord_and_indexMask (op idx : BitVec 8) :
    commandWord op idx &&& 0xFFFF00FF#32 = commandWord op 0#8 := by
  have mask : (0xFFFF00FF#32) = (0xFFFF#16 ++ 0#8) ++ 0xFF#8 := by decide
  have full : ∀ b : BitVec 8, b &&& 0xFF#8 = b := fun b => BitVec.and_allOnes
  rw [mask, commandWord, commandWord, BitVec.and_append, BitVec.and_append, full]
  simp

end Sys2Proof

/-- The command word of `i`, under the mask of its row, is the match of its row (R72). -/
def Sys2Proof.Laws.MatchMask.Statement (i : Sys2Proof.Instr) : Prop :=
  Sys2Proof.encode i &&& Sys2Proof.rowMask i = Sys2Proof.rowMatch i

theorem Sys2Proof.Laws.MatchMask.alloc : Sys2Proof.Laws.MatchMask.Statement .alloc := by
  unfold Sys2Proof.Laws.MatchMask.Statement; decide

theorem Sys2Proof.Laws.MatchMask.rel (idx : BitVec 8) : Sys2Proof.Laws.MatchMask.Statement (.rel idx) :=
  (Sys2Proof.commandWord_and_indexMask 2#8 idx).trans (show Sys2Proof.commandWord 2#8 0#8 = 2#32 by decide)

theorem Sys2Proof.Laws.MatchMask.reclaim (idx : BitVec 8) : Sys2Proof.Laws.MatchMask.Statement (.reclaim idx) :=
  (Sys2Proof.commandWord_and_indexMask 3#8 idx).trans (show Sys2Proof.commandWord 3#8 0#8 = 3#32 by decide)

theorem Sys2Proof.Laws.MatchMask.mix : Sys2Proof.Laws.MatchMask.Statement .mix := by
  unfold Sys2Proof.Laws.MatchMask.Statement; decide

theorem Sys2Proof.Laws.MatchMask.isdone (idx : BitVec 8) : Sys2Proof.Laws.MatchMask.Statement (.isdone idx) :=
  (Sys2Proof.commandWord_and_indexMask 5#8 idx).trans (show Sys2Proof.commandWord 5#8 0#8 = 5#32 by decide)
end

