-- ==== Sys2Proof/Laws/Pool.lean ====
section
/-! SUPPORT. The meanings of the commands: what each answers, and the cases a proof over exec splits into. -/

namespace Sys2Proof.Machine

/-- The index operand in range: the command goes on. -/
theorem withIndex_of_lt {idx : BitVec 8} {s : State} (go : Nat → State) (h : idx.toNat < s.nVoices) :
    withIndex idx s go = .next (go idx.toNat) := by
  simp [withIndex, h]

/-- The index operand out of range: ERR_INDEX. -/
theorem withIndex_of_ge {idx : BitVec 8} {s : State} (go : Nat → State) (h : s.nVoices ≤ idx.toNat) :
    withIndex idx s go = .next (s.fail .errIndex) := by
  simp [withIndex, Nat.not_lt.2 h]

/-- Everything a command with an index operand can answer. -/
theorem withIndex_eq_next {idx : BitVec 8} {s t : State} {go : Nat → State} (h : withIndex idx s go = .next t) :
    (idx.toNat < s.nVoices ∧ t = go idx.toNat) ∨ (s.nVoices ≤ idx.toNat ∧ t = s.fail .errIndex) := by
  unfold withIndex at h
  split at h
  · next l => exact .inl ⟨l, by cases h; rfl⟩
  · next l => exact .inr ⟨Nat.not_lt.1 l, by cases h; rfl⟩

/-- Everything ALLOC can answer: the least free voice allocated, or FAILURE. -/
theorem execAlloc_eq_next {s t : State} (h : execAlloc s = .next t) :
    (∃ i, s.firstFree = some i ∧ t = s.allocate i) ∨ (s.firstFree = none ∧ t = s.fail .failure) := by
  unfold execAlloc at h
  split at h
  · next e => exact .inr ⟨e, by cases h; rfl⟩
  · next i e => exact .inl ⟨i, e, by cases h; rfl⟩

theorem State.allocate_hai (s : State) (i : Nat) : (s.allocate i).hai = max s.hai i := rfl
@[simp] theorem State.allocate_nVoices (s : State) (i : Nat) : (s.allocate i).nVoices = s.nVoices := by
  simp [State.allocate]
theorem State.allocate_voice (s : State) (i j : Nat) :
    (s.allocate i).voice j = if j = i ∧ i < s.nVoices then Voice.reset s.note else s.voice j := by
  simp [State.allocate, State.setVoice_voice]

/-- Everything MIX answers. -/
theorem execMix_eq (s : State) :
    execMix s = .next (s.advanceVisited.respond .ok (toU32 (mixVoices s.wave s.visited s.voices 0))) := rfl

/-- HAI after RECLAIM of voice `i`. -/
def reclaimedHai (s : State) (i : Nat) : Int := if (i : Int) = s.hai then s.scanDown (i + 1) else s.hai

/-- RECLAIM in range: HAI and the response, nothing else. -/
theorem execReclaim_of_lt {idx : BitVec 8} {s : State} (h : idx.toNat < s.nVoices) :
    execReclaim idx s = .next ((s.setHai (reclaimedHai s idx.toNat)).respond .ok 0#32) := by
  rw [execReclaim, withIndex_of_lt _ h, reclaimedHai]
  split <;> rfl

/-- Everything a command can answer, in one place: its effect, or the code with which it fails. -/
theorem exec_eq_next {i : Instr} {s t : State} (h : exec i s = .next t) :
    (∃ k, i = .alloc ∧ s.firstFree = some k ∧ t = s.allocate k) ∨
    (i = .alloc ∧ s.firstFree = none ∧ t = s.fail .failure) ∨
    (∃ idx, i = .rel idx ∧ idx.toNat < s.nVoices ∧
      t = ((s.setVoice idx.toNat (s.voice idx.toNat).release).raiseHai idx.toNat).respond .ok 0#32) ∨
    (∃ idx, i = .reclaim idx ∧ idx.toNat < s.nVoices ∧
      t = (s.setHai (reclaimedHai s idx.toNat)).respond .ok 0#32) ∨
    (i = .mix ∧ t = s.advanceVisited.respond .ok (toU32 (mixVoices s.wave s.visited s.voices 0))) ∨
    (∃ idx, i = .isdone idx ∧ idx.toNat < s.nVoices ∧
      t = s.respond .ok (if (s.voice idx.toNat).isDone then 1#32 else 0#32)) ∨
    (∃ idx, i.index? = some idx ∧ s.nVoices ≤ idx.toNat ∧ t = s.fail .errIndex) := by
  cases i with
  | alloc =>
    rcases execAlloc_eq_next h with ⟨k, f, e⟩ | ⟨f, e⟩
    · exact .inl ⟨k, rfl, f, e⟩
    · exact .inr (.inl ⟨rfl, f, e⟩)
  | rel idx =>
    rw [exec, execRel] at h
    rcases withIndex_eq_next h with ⟨l, e⟩ | ⟨l, e⟩
    · exact .inr (.inr (.inl ⟨idx, rfl, l, e⟩))
    · exact .inr (.inr (.inr (.inr (.inr (.inr ⟨idx, rfl, l, e⟩)))))
  | reclaim idx =>
    by_cases l : idx.toNat < s.nVoices
    · rw [exec, execReclaim_of_lt l] at h
      exact .inr (.inr (.inr (.inl ⟨idx, rfl, l, by cases h; rfl⟩)))
    · rw [exec, execReclaim] at h
      rcases withIndex_eq_next h with ⟨l', _⟩ | ⟨l', e⟩
      · exact absurd l' l
      · exact .inr (.inr (.inr (.inr (.inr (.inr ⟨idx, rfl, l', e⟩)))))
  | mix => exact .inr (.inr (.inr (.inr (.inl ⟨rfl, by cases h; rfl⟩))))
  | isdone idx =>
    rw [exec, execIsdone] at h
    rcases withIndex_eq_next h with ⟨l, e⟩ | ⟨l, e⟩
    · exact .inr (.inr (.inr (.inr (.inr (.inl ⟨idx, rfl, l, e⟩)))))
    · exact .inr (.inr (.inr (.inr (.inr (.inr ⟨idx, rfl, l, e⟩)))))

/-- Every command answers a next state, in every state. -/
theorem exec_next (i : Instr) (s : State) : ∃ t, exec i s = .next t := by
  have indexed : ∀ (idx : BitVec 8) (go : Nat → State), ∃ t, withIndex idx s go = .next t := by
    intro idx go; unfold withIndex; split <;> exact ⟨_, rfl⟩
  cases i with
  | alloc => rw [exec, execAlloc]; split <;> exact ⟨_, rfl⟩
  | rel idx => rw [exec, execRel]; exact indexed idx _
  | reclaim idx => rw [exec, execReclaim]; exact indexed idx _
  | mix => exact ⟨_, rfl⟩
  | isdone idx => rw [exec, execIsdone]; exact indexed idx _

end Sys2Proof.Machine
end

