-- ==== Sys2Proof/Laws/Step.lean ====
section
/-! SUPPORT. The register port and the step: the answers of each host event, one at a time. -/

namespace Sys2Proof.Machine

@[simp] theorem andThen_next {σ τ φ ρ : Type} (s : σ) (f : σ → Host.Outcome τ φ ρ) :
    andThen (.next s : Host.Outcome σ φ ρ) f = f s := rfl

/-- A chain answers a next state when each of its two parts does. -/
theorem andThen_eq_next {σ τ φ ρ : Type} {o : Host.Outcome σ φ ρ} {f : σ → Host.Outcome τ φ ρ} {t : τ}
    (h : andThen o f = .next t) : ∃ s, o = .next s ∧ f s = .next t := by
  cases o with
  | next s => exact ⟨s, rfl, h⟩
  | fault r => cases h
  | refused r => cases h

theorem execute_illegal {w : Word} {why : Reject} (h : decode w = .illegal why) (s : State) :
    execute w s = .next (s.fail .errOpcode) := by
  simp [execute, h]

theorem execute_instr {w : Word} {i : Instr} (h : decode w = .instr i) (s : State) :
    execute w s = exec i s := by
  simp [execute, h]

theorem regWrite_zero (w : Word) (s : State) : regWrite 0 w s = execute w (s.setCmd w) := rfl

theorem regWrite_pos {n : Nat} (h : n ≠ 0) (w : Word) (s : State) :
    regWrite n w s = .next (s.setOperand n w) := by
  cases n with
  | zero => exact absurd rfl h
  | succ n => rfl

theorem hostWrite_zero (w : Word) (s : State) :
    hostWrite 0 w s = andThen (execute w (s.setCmd w)) fun t => .next t.observeResponse := rfl

theorem hostWrite_pos {n : Nat} (h : n ≠ 0) (w : Word) (s : State) :
    hostWrite n w s = .next (s.setOperand n w) := by
  simp [hostWrite, regWrite_pos h, h]

theorem step_idle {s : State} (h : s.inputs = []) : step s = .next s := by
  simp [step, serve, h]

theorem step_event {s : State} {e : HostEvent} {rest : List HostEvent} (h : s.inputs = e :: rest) :
    step s = hostAccess e (s.setInputs rest) := by
  simp [step, serve, h]

@[simp] theorem State.withNext_inputs (s : State) (e : HostEvent) : (s.withNext e).inputs = e :: s.inputs := rfl

/-- A step that serves a host event in front of the others. -/
theorem step_withNext (s : State) (e : HostEvent) : step (s.withNext e) = hostAccess e s := by
  rw [step_event (s.withNext_inputs e)]; rfl

/-- Everything a RegWrite can answer. -/
theorem regWrite_eq_next {n : Nat} {w : Word} {s t : State} (h : regWrite n w s = .next t) :
    (n = 0 ∧ (∃ why, decode w = .illegal why) ∧ t = (s.setCmd w).fail .errOpcode) ∨
    (∃ i, n = 0 ∧ decode w = .instr i ∧ exec i (s.setCmd w) = .next t) ∨
    (n ≠ 0 ∧ t = s.setOperand n w) := by
  by_cases h0 : n = 0
  · subst h0
    rw [regWrite_zero] at h
    cases d : decode w with
    | illegal why =>
      rw [execute_illegal d] at h
      exact .inl ⟨rfl, ⟨why, rfl⟩, by cases h; rfl⟩
    | instr i =>
      rw [execute_instr d] at h
      exact .inr (.inl ⟨i, rfl, rfl, h⟩)
  · rw [regWrite_pos h0] at h
    exact .inr (.inr ⟨h0, by cases h; rfl⟩)

/-- Everything one step can answer when it answers a next state: nothing to do, something observed, a register
written, or the bank reset. -/
theorem step_eq_next {s t : State} (h : step s = .next t) :
    (s.inputs = [] ∧ t = s) ∨
    ∃ e rest, s.inputs = e :: rest ∧
      ((∃ o, t = (s.setInputs rest).observe o) ∨
       (∃ n w u, regWrite n w (s.setInputs rest) = .next u ∧ t = if n = 0 then u.observeResponse else u) ∨
       t = (s.setInputs rest).powerCycle) := by
  have write : ∀ {n w} {s' : State}, hostWrite n w s' = .next t →
      ∃ u, regWrite n w s' = .next u ∧ t = if n = 0 then u.observeResponse else u := by
    intro n w s' e
    obtain ⟨u, h1, h2⟩ := andThen_eq_next e
    exact ⟨u, h1, by cases h2; rfl⟩
  cases e : s.inputs with
  | nil => rw [step_idle e] at h; exact .inl ⟨rfl, by cases h; rfl⟩
  | cons e' rest =>
    rw [step_event e] at h
    refine .inr ⟨e', rest, rfl, ?_⟩
    cases e' with
    | read n => exact .inl ⟨_, by cases h; rfl⟩
    | write n w => obtain ⟨u, hu, rfl⟩ := write h; exact .inr (.inl ⟨n, w, u, hu, rfl⟩)
    | busRead off width =>
      simp only [hostAccess] at h
      split at h
      · exact .inl ⟨_, by cases h; rfl⟩
      · cases h
    | busWrite off bytes =>
      simp only [hostAccess] at h
      split at h
      · obtain ⟨u, hu, rfl⟩ := write h; exact .inr (.inl ⟨_, _, u, hu, rfl⟩)
      · cases h
    | powerOnReset => exact .inr (.inr (by cases h; rfl))

/-- One step of a run, when it answers a next state. -/
theorem core_run_next {k : Nat} {s t : State} (h : step s = .next t) :
    Host.Core.run core (k + 1) s = Host.Core.run core k t := by
  have h' : core.step s = .next t := h
  exact (Host.Core.run.eq_2 core s k).trans (by rw [h'])

/-- A refusal ends a run. -/
theorem core_run_refused {k : Nat} {s : State} {r : Refusal} (h : step s = .refused r) :
    Host.Core.run core (k + 1) s = .refused r := by
  have h' : core.step s = .refused r := h
  exact (Host.Core.run.eq_2 core s k).trans (by rw [h'])

/-! The sum behind ACTIVE (R65). -/

/-- As a sum over the indices. -/
theorem activeSum_eq (i : Nat) (vs : List Voice) :
    activeSum i vs = ((List.range vs.length).map fun j =>
      if (vs.getD j Voice.free).envelopeState ≠ .done then 2 ^ (i + j) else 0).sum := by
  induction vs generalizing i with
  | nil => rfl
  | cons v vs ih =>
    rw [activeSum, ih, List.length_cons, List.range_succ_eq_map, List.map_cons, List.sum_cons, List.map_map]
    congr 1
    · by_cases h : v.envelopeState = .done <;> simp [h]
    · congr 1; apply List.map_congr_left; intro j _; simp [Nat.add_assoc, Nat.add_comm 1 j]

/-- Its bits. -/
theorem activeSum_testBit (i : Nat) (vs : List Voice) (b : Nat) :
    (activeSum i vs).testBit b = true ↔
      i ≤ b ∧ b < i + vs.length ∧ (vs.getD (b - i) Voice.free).envelopeState ≠ .done := by
  have dvd : ∀ i (vs : List Voice), 2^i ∣ activeSum i vs := by
    intro i vs; induction vs generalizing i with
    | nil => exact Dvd.intro 0 rfl
    | cons v vs ih =>
      rw [activeSum]
      exact Nat.dvd_add (by split; exact Dvd.intro 0 rfl; exact dvd_rfl)
        (Nat.dvd_trans (pow_dvd_pow 2 (by omega)) (ih (i + 1)))
  induction vs generalizing i with
  | nil => simp [activeSum]; omega
  | cons v vs ih =>
    rw [activeSum]
    obtain ⟨q, hq⟩ := dvd (i+1) vs
    by_cases h : v.envelopeState = .done
    · simp only [(Voice.isDone_iff v).2 h, if_true, Nat.zero_add, ih (i+1)]
      constructor
      · rintro ⟨a, b', c⟩
        obtain ⟨k, hk⟩ : ∃ k, b - i = k + 1 := ⟨b-i-1, by omega⟩
        rw [show b - (i+1) = k by omega] at c
        refine ⟨by omega, by simp; omega, by rw [hk]; simpa using c⟩
      · rintro ⟨a, b', c⟩
        have : b - i ≠ 0 := by intro z; rw [z] at c; simp [h] at c
        obtain ⟨k, hk⟩ : ∃ k, b - i = k + 1 := ⟨b-i-1, by omega⟩
        rw [hk] at c; simp at b'
        refine ⟨by omega, by omega, by rw [show b - (i+1) = k by omega]; simpa using c⟩
    · have hd : v.isDone = false := by simp [h]
      simp only [hd, Bool.false_eq_true, if_false]
      have e : 2 ^ i + activeSum (i+1) vs = 2^i ||| activeSum (i+1) vs := by
        rw [hq, Nat.add_comm, Nat.or_comm, Nat.pow_succ, Nat.mul_assoc]
        rw [show 2^i * (2*q) + 2^i = 2^i * (2*q+1) by ring]
        apply Nat.eq_of_testBit_eq; intro k
        rw [Nat.testBit_or, Nat.testBit_two_pow_mul, Nat.testBit_two_pow_mul, Nat.testBit_two_pow]
        by_cases hk : i ≤ k
        · by_cases hk2 : i = k
          · subst hk2; simp
          · obtain ⟨m, hm⟩ : ∃ m, k - i = m + 1 := ⟨k-i-1, by omega⟩
            simp [hk, hk2, hm, Nat.testBit_succ]
            congr 1; omega
        · simp [hk]; omega
      have IH := ih (i+1)
      simp only [e, Nat.testBit_or, Bool.or_eq_true, IH, Nat.testBit_two_pow, decide_eq_true_eq]
      constructor
      · rintro (a | ⟨a, b', c⟩)
        · have : i = b := by simpa using a
          subst this; simp [h]
        · obtain ⟨k, hk⟩ : ∃ k, b - i = k + 1 := ⟨b-i-1, by omega⟩
          rw [show b - (i+1) = k by omega] at c
          refine ⟨by omega, by simp; omega, by rw [hk]; simpa using c⟩
      · rintro ⟨a, b', c⟩
        by_cases z : i = b
        · left; simp [z]
        · right
          obtain ⟨k, hk⟩ : ∃ k, b - i = k + 1 := ⟨b-i-1, by omega⟩
          rw [hk] at c; simp at b'
          refine ⟨by omega, by omega, by rw [show b - (i+1) = k by omega]; simpa using c⟩

/-- Its bound. -/
theorem activeSum_add_le (i : Nat) (vs : List Voice) : activeSum i vs + 2^i ≤ 2^(i + vs.length) := by
  induction vs generalizing i with
  | nil => simp [activeSum]
  | cons v vs ih =>
    have := ih (i+1)
    rw [activeSum, List.length_cons, show i + (vs.length+1) = i+1+vs.length by omega]
    have : 2^(i+1) = 2^i + 2^i := by ring
    generalize 2^(i+1+vs.length) = A at *
    generalize 2^(i+1) = B at *
    generalize 2^i = C at *
    split <;> omega

end Sys2Proof.Machine
end

