-- ==== Sys2Proof/Laws/Protocol.lean ====
section
/-! SUPPORT. The host's side: sequences of accesses, and the write of a command. -/

namespace Sys2Proof.Machine

/-- Accesses in two parts, one part after the other. -/
theorem runEvents_append (es fs : List HostEvent) (s : State) :
    runEvents (es ++ fs) s = andThen (runEvents es s) (runEvents fs) := by
  induction es generalizing s with
  | nil => rfl
  | cons e es ih =>
    simp only [List.cons_append, runEvents]
    cases hostAccess e s with
    | next t => exact ih t
    | fault r => rfl
    | refused r => rfl

/-- A RegWrite always answers: only the bus form of the port refuses. -/
theorem hostWrite_next (n : Nat) (w : Word) (s : State) : ∃ t, hostWrite n w s = .next t := by
  by_cases h : n = 0
  · subst h
    have : ∃ t, execute w (s.setCmd w) = .next t := by
      cases d : decode w with
      | illegal why => exact ⟨_, execute_illegal d _⟩
      | instr i => rw [execute_instr d]; exact exec_next i _
    obtain ⟨t, e⟩ := this
    exact ⟨_, by rw [hostWrite_zero, e]; rfl⟩
  · exact ⟨_, hostWrite_pos h w s⟩

/-- The write of a command's word, when the command answers a next state. -/
theorem hostAccess_issue {i : Instr} {s t : State} (d : decode (encode i) = .instr i)
    (e : exec i (s.setCmd (encode i)) = .next t) : hostAccess (issue i) s = .next t.observeResponse := by
  rw [issue, hostAccess, hostWrite_zero, execute_instr d, e]; rfl

end Sys2Proof.Machine
end

