-- ==== Sys2Proof/Tests/Slice0.lean ====
section
/-! SUPPORT. Tests: ill-formed commands, words written from the encoding, single steps with the results of
spec/95_test_vectors.md, and for each obligation with hypotheses a state and operands that meet them. -/

namespace Sys2Proof.Tests

open Sys2Proof.Machine

/-! ## Helpers -/

/-- The response left by an outcome. -/
def response (o : Host.Outcome State Fault Refusal) : Option (Word × Word) :=
  match o with
  | .next t => some (t.rcode, t.result)
  | .fault _ => none
  | .refused _ => none

/-- HAI and the voice `i` left by an outcome. -/
def leaves (i : Nat) (o : Host.Outcome State Fault Refusal) : Option (Int × Voice) :=
  match o with
  | .next t => some (t.hai, t.voice i)
  | .fault _ => none
  | .refused _ => none

/-- The number of a register's word left by an outcome. -/
def shows (n : Nat) (o : Host.Outcome State Fault Refusal) : Option Word :=
  match o with
  | .next t => some (t.regRead n)
  | .fault _ => none
  | .refused _ => none

/-- A bank with these voices and this HAI, everything else as at reset. -/
def bank (hai : Int) (vs : List Voice) : State := { State.reset with voices := vs, hai := hai }

/-- The note of R91's example and of program P1. -/
def noteP1 : Note := ⟨0x10000000#32, 8#32, 0x40000000#32, 0x40000000#32, 0x80000000#32, 0x40000000#32⟩

/-- The reset state with a note in the operand registers. -/
def holding (n : Note) : State :=
  { State.reset with freq := n.freq, dur := n.dur, atk := n.atk, dcy := n.dcy, sus := n.sus, rls := n.rls }

/-- A voice in this state at this level, every other field 0. -/
def voiceAt (e : EnvelopeState) (level : Word) : Voice := { Voice.free with envelopeState := e, level := level }

/-- The peak note's voice of section 2.8 as it is after its ALLOC. -/
def peak : Voice :=
  Voice.reset ⟨0x40000000#32, 100#32, 0xFFFFFFFF#32, 0#32, 0xFFFFFFFF#32, 0xFFFFFFFF#32⟩

/-- Ten voices, none of them free. -/
def full : State := bank 9 (List.replicate 10 (voiceAt .sustain 0x80000000#32))

/-- R125's example: voices 0 and 2 active, HAI 4. -/
def stale : State :=
  bank 4 [peak, Voice.free, peak, Voice.free, Voice.free, Voice.free, Voice.free, Voice.free, Voice.free,
    Voice.free]

/-! ## Well-formedness: one ill-formed term for each check -/

theorem test_wf_rel_out_of_range : Instr.wellFormed 10 (.rel 10#8) = false := by decide
theorem test_wf_reclaim_out_of_range : Instr.wellFormed 10 (.reclaim 255#8) = false := by decide
theorem test_wf_isdone_out_of_range : Instr.wellFormed 4 (.isdone 4#8) = false := by decide
theorem test_wf_in_range : Instr.wellFormed 10 (.rel 9#8) = true ∧ Instr.wellFormed 1 .mix = true := by decide
theorem test_wf_no_bank_of_none : legalBankSize 0 = false := by decide
theorem test_wf_no_bank_of_33 : legalBankSize 33 = false := by decide
theorem test_wf_banks : legalBankSize 1 = true ∧ legalBankSize 32 = true := by decide

/-! ## Decoding: words written out bit by bit from R71 and R72, reserved bits, index, opcode (vectors X) -/

theorem test_decode_alloc : decode 0b0000000000000000_00000000_00000001#32 = .instr .alloc := by decide
theorem test_decode_rel_255 : decode 0b0000000000000000_11111111_00000010#32 = .instr (.rel 255#8) := by decide
theorem test_decode_reclaim_7 : decode 0b0000000000000000_00000111_00000011#32 = .instr (.reclaim 7#8) := by decide
theorem test_decode_mix : decode 0b0000000000000000_00000000_00000100#32 = .instr .mix := by decide
theorem test_decode_isdone_9 : decode 0b0000000000000000_00001001_00000101#32 = .instr (.isdone 9#8) := by decide
theorem test_decode_x1 : decode 0x00000000#32 = .illegal .reservedOpcode := by decide
theorem test_decode_x3 : decode 0x00000101#32 = .illegal .indexNotZero := by decide
theorem test_decode_x4 : decode 0x0001FF02#32 = .illegal .reservedBits := by decide
theorem test_decode_x11 : decode 0x00000006#32 = .illegal .reservedOpcode := by decide
theorem test_decode_x12 : decode 0x000000FF#32 = .illegal .reservedOpcode := by decide
theorem test_decode_x14 : decode 0x80000001#32 = .illegal .reservedBits := by decide
theorem test_decode_x15 : decode 0x00000104#32 = .illegal .indexNotZero := by decide
theorem test_encode_r77 : encode (.rel 3#8) = 0x00000302#32 ∧ encode (.reclaim 9#8) = 0x00000903#32 := by decide

/-! ## One step of each command (R122's example, vectors X and M, R125's example) -/

theorem test_alloc_first : response (exec .alloc (holding noteP1)) = some (0#32, 0#32) ∧
    leaves 0 (exec .alloc (holding noteP1)) = some (0, Voice.reset noteP1) := by decide
theorem test_alloc_failure : response (exec .alloc full) = some (1#32, 0xFFFFFFFF#32) := by decide
theorem test_rel_x7 : leaves 9 (exec (.rel 9#8) State.reset) = some (9, voiceAt .released 0#32) := by decide
theorem test_rel_x6 : response (exec (.rel 10#8) State.reset) = some (2#32, 0xFFFFFFFF#32) := by decide
theorem test_reclaim_4 : leaves 2 (exec (.reclaim 4#8) stale) = some (2, peak) := by decide
theorem test_reclaim_3 : leaves 3 (exec (.reclaim 3#8) stale) = some (4, Voice.free) := by decide
theorem test_mix_m2 : response (exec .mix (bank 0 [Voice.reset noteP1])) = some (0#32, 0x030FC000#32) := by decide
theorem test_mix_m5 : response (exec .mix (bank 4 [peak, peak, peak, peak, peak])) =
    some (0#32, 0x7FFFFFFF#32) := by decide
theorem test_isdone_x10 : response (exec (.isdone 9#8) State.reset) = some (0#32, 1#32) := by decide
theorem test_isdone_active : response (exec (.isdone 9#8) full) = some (0#32, 0#32) := by decide

/-! ## The step -/

/-- X7 by way of the fetch: STATUS after `REL 9`. -/
theorem test_step_fetch : shows 3 (step (State.reset.withFetchWord 32 0x902)) = some 0x00000A09#32 := by decide
/-- X16: an illegal word is answered and the block goes on. -/
theorem test_step_illegal :
    response (step (State.reset.withFetchWord 32 0xFFFFFFFF)) = some (3#32, 0xFFFFFFFF#32) := by decide
/-- G5: a write of ATK. -/
theorem test_step_write_atk :
    shows 7 (step (State.reset.withNext (.write 7 0x40000000#32))) = some 0x40000000#32 := by decide
/-- G6: a write of STATUS is ignored. -/
theorem test_step_write_status :
    shows 3 (step (State.reset.withNext (.write 3 0x12345678#32))) = some 0x00000AFF#32 := by decide

/-! ## The voice (vectors E and V) -/

/-- One envelope step, as state and level. -/
def envStepOf (v : Voice) : EnvelopeState × Word := (v.envStep.envelopeState, v.envStep.level)

theorem test_env_e2 : envStepOf { voiceAt .rising 0xC0000000#32 with attackRate := 0x3FFFFFFF#32 } =
    (.rising, 0xFFFFFFFF#32) := by decide
theorem test_env_e3 : envStepOf { voiceAt .rising 0xC0000000#32 with attackRate := 0x40000000#32 } =
    (.falling, 0xFFFFFFFF#32) := by decide
theorem test_env_e12 : envStepOf { voiceAt .falling 0xC0000001#32 with
    decayRate := 0x40000000#32, sustainLevel := 0x80000000#32 } = (.falling, 0x80000001#32) := by decide
theorem test_env_e14 : envStepOf { voiceAt .falling 0x10000000#32 with decayRate := 0x40000000#32 } =
    (.done, 0#32) := by decide
theorem test_env_e18 : envStepOf { voiceAt .falling 0x20000000#32 with
    decayRate := 0x10000000#32, sustainLevel := 0x80000000#32 } = (.sustain, 0x80000000#32) := by decide
theorem test_env_e22 : envStepOf { voiceAt .sustain 0x80000000#32 with cyclesRemaining := 0xFFFFFFFF#32 } =
    (.released, 0x80000000#32) := by decide
theorem test_env_e28 : envStepOf { voiceAt .released 0x40000001#32 with releaseRate := 0x40000000#32 } =
    (.released, 1#32) := by decide
theorem test_env_e29 : envStepOf (voiceAt .released 0#32) = (.done, 0#32) := by decide

/-- V11: the counter at its floor, the sample at the sustain level. -/
theorem test_sample_v11 :
    let v := { voiceAt .sustain 0x80000000#32 with
      stepSize := 0x40000000#32, cyclesRemaining := 0x80000000#32 }
    v.sample defaultWave = 268435456 ∧ v.advance.cyclesRemaining = 0x80000000#32 ∧
      v.advance.envelopeState = .released := by decide
/-- V4: the most negative sample. -/
theorem test_sample_v4 : Voice.sample defaultWave { voiceAt .sustain 0xFFFFFFFF#32 with
    phase := 0xBF000000#32, stepSize := 0x01000000#32, cyclesRemaining := 3#32 } = -536862720 := by decide

/-! ## The host's side (vectors H) -/

theorem test_freq_h1_h8 : freqWord 48000 ⟨440, 1⟩ = 0x0258BF25#32 ∧ freqWord 48000 ⟨24000, 1⟩ = 0x80000000#32 := by
  decide
theorem test_rates_h3_h12 : atkWord 48000 ⟨1, 100⟩ = 0x00888888#32 ∧ atkWord 48000 ⟨100000, 1⟩ = 1#32 := by decide
theorem test_rates_h5_h6 : dcyWord 48000 ⟨1, 10⟩ 0x7FFFFFFF#32 = 0x0006D3A0#32 ∧
    rlsWord 48000 ⟨1, 5⟩ 0x7FFFFFFF#32 = 0x000369D0#32 := by decide
theorem test_sus_h15 : susWord ⟨1, 4⟩ = 0x3FFFFFFF#32 ∧ durWord 44100 ⟨1, 3⟩ = 14700#32 := by decide

/-! ## Witnesses: for each obligation with hypotheses, a state and operands that meet them -/

theorem test_wit_decoded_word : decode 0x0000FF02#32 = .instr (.rel 255#8) := by decide

/-- R70: a word at each check, and one at each command. -/
theorem test_wit_execute_checks :
    response (regWrite 0 0x00010000#32 State.reset) = some (3#32, 0xFFFFFFFF#32) ∧
    response (regWrite 0 0x00000006#32 State.reset) = some (3#32, 0xFFFFFFFF#32) ∧
    response (regWrite 0 0x00000104#32 State.reset) = some (3#32, 0xFFFFFFFF#32) ∧
    response (regWrite 0 0x00000A05#32 State.reset) = some (2#32, 0xFFFFFFFF#32) ∧
    response (regWrite 0 0x00000001#32 State.reset) = some (0#32, 0#32) ∧
    response (regWrite 0 0x00000902#32 State.reset) = some (0#32, 0#32) ∧
    response (regWrite 0 0x00000903#32 State.reset) = some (0#32, 0#32) ∧
    response (regWrite 0 0x00000004#32 State.reset) = some (0#32, 0#32) ∧
    response (regWrite 0 0x00000905#32 State.reset) = some (0#32, 1#32) := by decide

/-- R74: each ground for an illegal word, and a word with none of them. -/
theorem test_wit_illegal_words :
    (0x00010000#32).toNat / 65536 ≠ 0 ∧ (0x00000000#32).toNat % 256 = 0 ∧ 6 ≤ (0x00000006#32).toNat % 256 ∧
    ((0x00000101#32).toNat % 256 = 1 ∧ (0x00000101#32).toNat / 256 % 256 ≠ 0) ∧
    ¬ ((0x00000005#32).toNat / 65536 ≠ 0 ∨ (0x00000005#32).toNat % 256 = 0 ∨
      6 ≤ (0x00000005#32).toNat % 256 ∨ (((0x00000005#32).toNat % 256 = 1 ∨ (0x00000005#32).toNat % 256 = 4) ∧
      (0x00000005#32).toNat / 256 % 256 ≠ 0)) := by decide

/-- R171: a write that answers each code. -/
theorem test_wit_response_codes :
    (∃ t, regWrite 0 0x00000001#32 State.reset = .next t ∧ t.rcode = 0#32) ∧
    (∃ t, regWrite 0 0x00000001#32 full = .next t ∧ t.rcode = 1#32) ∧
    (∃ t, regWrite 0 0x00000A02#32 full = .next t ∧ t.rcode = 2#32) ∧
    (∃ t, regWrite 0 0x00000000#32 full = .next t ∧ t.rcode = 3#32) :=
  ⟨⟨_, rfl, by decide⟩, ⟨_, rfl, by decide⟩, ⟨_, rfl, by decide⟩, ⟨_, rfl, by decide⟩⟩

theorem test_wit_non_ok : ∃ t, regWrite 0 0x0000FF03#32 State.reset = .next t ∧ t.rcode ≠ 0#32 :=
  ⟨_, rfl, by decide⟩

/-- ALLOC: the first voice free, only the last free, none free. -/
theorem test_wit_alloc_first : 0 < State.reset.nVoices ∧ (State.reset.voice 0).envelopeState = .done ∧
    ∀ j, j < 0 → (State.reset.voice j).envelopeState ≠ .done := by decide
theorem test_wit_alloc_last :
    let s := bank 8 (List.replicate 9 peak ++ [Voice.free])
    9 < s.nVoices ∧ (s.voice 9).envelopeState = .done ∧ ∀ j, j < 9 → (s.voice j).envelopeState ≠ .done := by decide
theorem test_wit_alloc_none : ∀ j, j < full.nVoices → (full.voice j).envelopeState ≠ .done := by decide

/-- REL, ISDONE: the last index in range and the first out of it. -/
theorem test_wit_index : (9#8).toNat < State.reset.nVoices ∧ State.reset.nVoices ≤ (10#8).toNat := by decide
/-- RECLAIM: of HAI, of another voice, out of range. -/
theorem test_wit_reclaim : ((4#8).toNat < stale.nVoices ∧ ((4#8).toNat : Int) = stale.hai) ∧
    ((3#8).toNat < stale.nVoices ∧ ((3#8).toNat : Int) ≠ stale.hai) ∧ stale.nVoices ≤ (10#8).toNat := by decide
/-- MIX: HAI at NONE and at the last voice. -/
theorem test_wit_mix : (-1 ≤ State.reset.hai ∧ State.reset.hai < State.reset.nVoices) ∧
    (full.hai = 9 ∧ full.hai < full.nVoices) := by decide
/-- A next state of each command. -/
theorem test_wit_frame : (∃ t, exec .alloc full = .next t) ∧ (∃ t, exec .alloc State.reset = .next t) ∧
    (∃ t, exec (.rel 9#8) stale = .next t) ∧ (∃ t, exec (.reclaim 4#8) stale = .next t) ∧
    (∃ t, exec .mix stale = .next t) ∧ ∃ t, exec (.isdone 0#8) stale = .next t :=
  ⟨⟨_, rfl⟩, ⟨_, rfl⟩, ⟨_, rfl⟩, ⟨_, rfl⟩, ⟨_, rfl⟩, ⟨_, rfl⟩⟩
/-- satadd32 on each side of both clamps (vectors A4, A11, A13, A14). -/
theorem test_wit_satadd : satadd32 2147483647 1 = 2147483647 ∧ satadd32 1073741824 1073741823 = 2147483647 ∧
    satadd32 (-1073741824) (-1073741824) = -2147483648 ∧
    satadd32 (-1073741824) (-1073741825) = -2147483648 := by decide
theorem test_wit_mix_range : ∃ t, exec .mix (bank 4 [peak, peak, peak, peak, peak]) = .next t ∧
    t.result.toInt = 2147483647 := ⟨_, rfl, by decide⟩

/-- The weak pool invariant on a small bank, by its voices. -/
theorem weakPool_of (s : State) (h : ∀ i, i < s.nVoices → s.hai < i → (s.voice i).isDone = true) : s.WeakPool :=
  fun i h1 h2 => h i h2 h1

/-- A stale HAI: the true maximum is 2, HAI is 4, and 9 is higher still. -/
theorem test_wit_stale : stale.WeakPool ∧ stale.hai ≤ 9 := ⟨weakPool_of _ (by decide), by decide⟩

/-- A state with the whole invariant, HAI stale and a free voice above it. -/
theorem test_wit_inv : stale.Inv :=
  ⟨⟨by decide, by decide, by decide⟩, weakPool_of _ (by decide), by unfold State.DoneSilent; decide,
    ⟨by decide, by decide⟩⟩
theorem test_wit_rel_free : (9#8).toNat < stale.nVoices ∧ (stale.voice (9#8).toNat).envelopeState = .done := by
  decide
theorem test_wit_reset_inv : State.reset.Inv :=
  ⟨⟨by decide, by decide, by decide⟩, weakPool_of _ (by decide), by unfold State.DoneSilent; decide,
    ⟨by decide, by decide⟩⟩

/-- ALLOCs after reset: none, and as many as there are voices. -/
theorem test_wit_allocs : (0 ≤ 10 ∧ 0 < 10) ∧ 10 ≤ 10 := by decide

/-- A voice in each envelope state, on both sides of its boundary condition. -/
theorem test_wit_envelope_boundaries :
    (0xFFFFFFFF < (0xC0000000#32).toNat + (0x40000000#32).toNat ∧
      ¬ 0xFFFFFFFF < (0xC0000000#32).toNat + (0x3FFFFFFF#32).toNat) ∧
    ((0xC0000000#32).toNat - (0x40000000#32).toNat ≤ (0x80000000#32).toNat ∧
      ¬ (0xC0000001#32).toNat - (0x40000000#32).toNat ≤ (0x80000000#32).toNat ∧
      (0x10000000#32).toNat < (0x40000000#32).toNat) ∧
    ((0#32).toInt ≤ 0 ∧ ¬ (1#32).toInt ≤ 0) ∧
    ((0x40000000#32).toNat ≤ (0x40000000#32).toNat ∧ ¬ (0x40000001#32).toNat ≤ (0x40000000#32).toNat) := by decide
theorem test_wit_envelope_states :
    (voiceAt .rising 0xC0000000#32).envelopeState = .rising ∧
    (voiceAt .falling 0xC0000000#32).envelopeState = .falling ∧
    (voiceAt .sustain 0x80000000#32).envelopeState = .sustain ∧
    (voiceAt .released 0x40000000#32).envelopeState = .released ∧
    (voiceAt .done 0x1#32).envelopeState = .done := by decide
/-- A free voice that ALLOC takes, and one that REL takes. -/
theorem test_wit_leaves_done :
    ((∃ t, exec .alloc State.reset = .next t ∧ (t.voice 0).envelopeState ≠ .done) ∧
      (State.reset.voice 0).envelopeState = .done) ∧
    ((∃ t, exec (.rel 9#8) State.reset = .next t ∧ (t.voice 9).envelopeState ≠ .done) ∧
      (State.reset.voice 9).envelopeState = .done) :=
  ⟨⟨⟨_, rfl, by decide⟩, by decide⟩, ⟨⟨_, rfl, by decide⟩, by decide⟩⟩
theorem test_wit_next_sample : Voice.free.envelopeState = .done ∧ peak.envelopeState ≠ .done := by decide

/-- The timeline of P1's note (vector T1), at the last value of each range. -/
theorem test_wit_timeline :
    3 * noteP1.atk.toNat ≤ 4294967295 ∧ 0 < noteP1.atk.toNat ∧
    noteP1.sus.toNat + 1 * noteP1.dcy.toNat < 4294967295 ∧ 0 < noteP1.dcy.toNat ∧ 0 < noteP1.sus.toNat ∧
    attackSamples noteP1 = 4 ∧ decaySamples noteP1 = 2 ∧ releaseSample noteP1 = 9 ∧
    releaseSamples noteP1.sus noteP1.rls = 2 ∧ (4 + 2 ≤ 8 ∧ 8 < 9) ∧
    1 * noteP1.rls.toNat < noteP1.sus.toNat ∧ 0 < noteP1.rls.toNat := by decide
/-- P1 itself, at samples 3, 4, 6, 9 and 11. -/
theorem test_timeline_p1 :
    let v := Voice.reset noteP1
    (v.after 3).envelopeState = .rising ∧ (v.after 4).envelopeState = .falling ∧
    (v.after 6).envelopeState = .sustain ∧ (v.after 9).envelopeState = .released ∧
    (v.after 11).envelopeState = .done := by decide
/-- Valid notes at the edges of R105's three conditions. -/
theorem test_wit_valid :
    Note.valid ⟨0#32, 0#32, 1#32, 1#32, 0#32, 0#32⟩ ∧
    Note.valid ⟨0#32, 0#32, 1#32, 0#32, 0xFFFFFFFF#32, 1#32⟩ := by unfold Note.valid; decide
theorem test_wit_released : (voiceAt .released 0#32).level = 0#32 ∧
    ({ peak with releaseRate := 1#32 } : Voice).releaseRate ≠ 0#32 := by decide
/-- The reset state is reachable, its voices are DONE. -/
theorem test_wit_reachable : Reachable State.reset ∧ (State.reset.voice 9).envelopeState = .done :=
  ⟨.start 10 defaultWave [] (by decide), by decide⟩
/-- V10: a voice that becomes DONE in the call. -/
theorem test_wit_becomes_done : (voiceAt .released 0x40000000#32).envelopeState ≠ .done ∧
    ({ voiceAt .released 0x40000000#32 with releaseRate := 0x40000000#32 } : Voice).advance.envelopeState = .done := by
  decide
/-- A voice active over more than two periods of its phase (period 4). -/
theorem test_wit_pitch : 2 ^ 32 / Nat.gcd peak.stepSize.toNat (2 ^ 32) = 4 ∧
    ∀ j, j < 5 + 4 → (peak.after j).envelopeState ≠ .done := by decide
/-- Zero rates in RISING, FALLING and RELEASED. -/
theorem test_wit_zero_rates :
    (⟨0#32, 0#32, 0#32, 0#32, 0#32, 0#32⟩ : Note).atk = 0#32 ∧
    (let v := { voiceAt .falling 0xFFFFFFFF#32 with releaseRate := 1#32 }
     v.envelopeState = .falling ∧ v.level = 0xFFFFFFFF#32 ∧ v.decayRate = 0#32 ∧
      v.sustainLevel ≠ 0xFFFFFFFF#32 ∧ v.releaseRate ≠ 0#32) := by decide
theorem test_wit_zero_release :
    let s := bank 0 [voiceAt .released 1#32]
    (∃ t, exec .mix s = .next t) ∧ (s.voice 0).envelopeState = .released ∧ (s.voice 0).releaseRate = 0#32 ∧
      (s.voice 0).level ≠ 0#32 := ⟨⟨_, rfl⟩, by decide⟩

/-- The least and the greatest bank; STATUS with HAI at NONE and at a voice. -/
theorem test_wit_bank_sizes : (1 ≤ 1 ∧ 1 ≤ 32) ∧ (1 ≤ 32 ∧ 32 ≤ 32) := by decide
theorem test_wit_well_sized : (State.reset.WellSized ∧ State.reset.hai = -1) ∧ (full.WellSized ∧ 0 ≤ full.hai) :=
  ⟨⟨⟨by decide, by decide, by decide⟩, by decide⟩, ⟨by decide, by decide, by decide⟩, by decide⟩
/-- A register write that answers, of CMD, of an operand, of a view and of a reserved number. -/
theorem test_wit_reg_write : (∃ t, regWrite 0 4#32 State.reset = .next t) ∧
    (∃ t, regWrite 10 4#32 State.reset = .next t) ∧ (∃ t, regWrite 4 4#32 State.reset = .next t) ∧
    ∃ t, regWrite 11 4#32 State.reset = .next t := ⟨⟨_, rfl⟩, ⟨_, rfl⟩, ⟨_, rfl⟩, ⟨_, rfl⟩⟩
theorem test_wit_two_reads : ((State.reset.withNext (.read 3)).withNext (.read 3)).inputs =
    .read 3 :: .read 3 :: [] := by decide
/-- Bus accesses of a wrong width and at a wrong offset. -/
theorem test_wit_bus : ((2 ≠ 4 ∨ 0 % 4 ≠ 0) ∧ (4 ≠ 4 ∨ 6 % 4 ≠ 0)) ∧
    (([0#8] : List Byte).length ≠ 4 ∨ 0 % 4 ≠ 0) := by decide
/-- The accesses a step refuses. -/
theorem test_wit_refused :
    (State.reset.withNext (.busRead 6 4)).inputs = .busRead 6 4 :: [] ∧
    (State.reset.withNext (.busWrite 0 [0#8])).inputs = .busWrite 0 [0#8] :: [] := by decide
/-- R53's byte order: STATUS after reset, and a write of ATK. -/
theorem test_bus_bytes :
    wordBytes (State.reset.regRead 3) = [0xFF#8, 0x0A#8, 0#8, 0#8] ∧
    shows 7 (hostAccess (.busWrite 28 [0x78#8, 0x56#8, 0x34#8, 0x12#8]) State.reset) = some 0x12345678#32 := by
  decide
theorem test_wit_step_decoded : (State.reset.withFetchWord 32 0x705).inputs = .write 0 0x00000705#32 :: [] ∧
    decode 0x00000705#32 = .instr (.isdone 7#8) := by decide
theorem test_wit_no_input : State.reset.inputs = [] := by decide
/-- Steps from states with the invariant. -/
theorem test_wit_step : stale.Inv ∧ (∃ t, step (stale.withFetchWord 32 4) = .next t) ∧
    (stale.withFetchWord 32 4).Inv ∧ ∃ t, step stale = .next t :=
  ⟨test_wit_inv, ⟨_, rfl⟩, ⟨test_wit_inv.sized, test_wit_inv.pool, test_wit_inv.silent, test_wit_inv.response⟩,
    ⟨_, rfl⟩⟩
/-- An unreleased run of ALLOC, REL and ISDONE from a state with the strong property. -/
theorem test_wit_strong : State.reset.WellSized ∧ State.reset.StrongPool ∧
    (∀ i, i ∈ [Instr.alloc, .rel 9#8, .isdone 0#8] → i = .alloc ∨ (∃ idx, i = .rel idx) ∨ ∃ idx, i = .isdone idx) ∧
    ∃ t, execAll [.alloc, .rel 9#8, .isdone 0#8] State.reset = .next t :=
  ⟨⟨by decide, by decide, by decide⟩, ⟨weakPool_of _ (by decide), .inl (by decide)⟩, by simp, ⟨_, rfl⟩⟩
theorem test_wit_reclaim_restores : stale.WellSized ∧ stale.WeakPool ∧ ((4#8).toNat : Int) = stale.hai :=
  ⟨⟨by decide, by decide, by decide⟩, weakPool_of _ (by decide), by decide⟩
theorem test_wit_strong_kept : State.reset.StrongPool ∧ Instr.reclaim 0#8 ≠ .mix ∧
    ∃ t, exec (.reclaim 0#8) State.reset = .next t :=
  ⟨⟨weakPool_of _ (by decide), .inl (by decide)⟩, by decide, ⟨_, rfl⟩⟩
/-- A mix in which the voice at HAI becomes DONE, and one in which it does not. -/
theorem test_wit_mix_strong :
    (let s := bank 0 [voiceAt .released 0#32]
     s.WellSized ∧ s.StrongPool ∧ ∃ t, exec .mix s = .next t ∧ (t.voice 0).envelopeState = .done) ∧
    (let s := bank 0 [peak]
     s.WellSized ∧ s.StrongPool ∧ ∃ t, exec .mix s = .next t ∧ (t.voice 0).envelopeState ≠ .done) :=
  ⟨⟨⟨by decide, by decide, by decide⟩, ⟨weakPool_of _ (by decide), .inr (by decide)⟩, _, rfl, by decide⟩,
    ⟨by decide, by decide, by decide⟩, ⟨weakPool_of _ (by decide), .inr (by decide)⟩, _, rfl, by decide⟩

/-- Two banks that differ in what no command can observe. -/
theorem test_wit_indistinct :
    State.Indistinct (bank 0 [voiceAt .released 0#32])
      (bank 0 [{ voiceAt .released 0#32 with releaseRate := 7#32, phase := 0x80000000#32 }]) :=
  ⟨.cons (.inr ⟨⟨rfl, .inr rfl⟩, ⟨rfl, .inr rfl⟩, rfl⟩) .nil, rfl⟩
theorem test_wit_indistinct_stops :
    step ((bank 0 [voiceAt .released 0#32]).withNext (.busRead 2 4)) = .refused (.undefinedAccess 2 4) := rfl
theorem test_wit_reset_values :
    [{ Voice.free with phase := 1#32 }].length = 1 ∧
    (∀ v, v ∈ [{ Voice.free with phase := 1#32 }] → v.envelopeState = .done ∧ v.level = 0#32) ∧
    ∃ s, Host.Core.run core 1 { State.powerOn 1 defaultWave with inputs := [.write 0 2#32] } = .next s :=
  ⟨rfl, by decide, ⟨_, rfl⟩⟩

/-- The host's quantities at the ends of their ranges (vectors H8, H9, H16). -/
theorem test_wit_frequency : (0 < 48000 ∧ freqInRange 48000 ⟨24000, 1⟩ = true ∧ freqInRange 48000 ⟨0, 1⟩ = true) ∧
    durInRange 1 ⟨2147483647, 1⟩ = true ∧ durInRange 1 ⟨0, 1⟩ = true := by decide
theorem test_wit_sustain : ((⟨0, 4⟩ : Ratio).num ≤ 4 ∧ (⟨4, 4⟩ : Ratio).num ≤ 4) ∧ 0 < 4 := by decide
theorem test_wit_rates : (⟨0, 1⟩ : Ratio).num = 0 ∧ 0 < (⟨1, 5⟩ : Ratio).num ∧ 0 < (⟨1, 5⟩ : Ratio).den := by decide
/-- A frame with a note that finds no voice. -/
theorem test_wit_frame_full : ∃ t, playFrame [noteP1] full = .next (t, [noteP1]) := ⟨_, rfl⟩
/-- A frame that plays its note, and one that leaves it to the frames after it. -/
theorem test_wit_fill :
    (∃ t f, playFrame ([] ++ [noteP1]) State.reset = .next (t, []) ∧ playFrames [] [] t = .next f) ∧
    ∃ t f, playFrame ([] ++ [noteP1]) full = .next (t, [noteP1]) ∧ playFrames [[]] [noteP1] t = .next f :=
  ⟨⟨_, _, rfl, rfl⟩, ⟨_, _, rfl, rfl⟩⟩
/-- What a fill gives the host: the samples, and the number of notes left. -/
def fillShows (o : Host.Outcome Filled Fault Refusal) : Option (List Word × Nat) :=
  match o with
  | .next f => some (f.samples, f.due.length)
  | .fault _ => none
  | .refused _ => none
/-- P1's note due at the first of two frames (P1, MIX 1 and 2). -/
theorem test_fill_p1 : fillShows (playFill [[noteP1], []] [] State.reset) =
    some ([0x030FC000#32, 0x0B508000#32], 0) := by decide
theorem test_wit_busy : State.reset.nVoices ≤ 32 ∧ full.busy = true ∧ State.reset.busy = false := by decide

end Sys2Proof.Tests
end

