-- ==== Sys2Proof/Proofs/CommandStep.lean ====
section
/-! PROOFS. A step whose access writes a command to CMD (spec/00_scope.md R12, spec/41_pool_commands.md R120). -/

namespace Sys2Proof.Machine

/-- A write of CMD with a word that decodes to a command: the command runs, then its response is observed (R13). -/
theorem hostWrite_instr {w : Word} {i : Instr} {s t : State} (d : decode w = .instr i)
    (e : exec i (s.setCmd w) = .next t) : hostWrite 0 w s = .next t.observeResponse := by
  rw [hostWrite_zero, execute_instr d, e, andThen_next]

/-- The step that serves such a write. -/
theorem step_command {w : Word} {i : Instr} {rest : List HostEvent} {s t : State}
    (h : s.inputs = .write 0 w :: rest) (d : decode w = .instr i)
    (e : exec i ((s.setInputs rest).setCmd w) = .next t) : step s = .next t.observeResponse := by
  rw [step_event h, hostAccess, hostWrite_instr d e]

/-- Settles O43: the command answers in every state (`exec_next`), and the step answers with it (`step_command`). -/
theorem stepRunsTheDecodedCommand : Obligations.StepRunsTheDecodedCommand := by
  intro s w rest i h d
  obtain ⟨t, e⟩ := exec_next i ((s.setInputs rest).setCmd w)
  exact ⟨t, e, step_command h d e⟩

end Sys2Proof.Machine
end

section
/-! PROOFS. What every step keeps (spec/10_state.md R25, R29 to R31, R34): the parameters and the invariant. -/

namespace Sys2Proof.Machine

/-! ## A property that the port's operations keep is kept by every step -/

/-- Each operation of which a step is made keeps `P`: the bookkeeping of accesses and observations, the two kinds of
register write, a command, the answer to an illegal word, and power-on reset. -/
structure KeptByPort (P : State → Prop) : Prop where
  setInputs : ∀ s es, P s → P (s.setInputs es)
  observe : ∀ s o, P s → P (s.observe o)
  setCmd : ∀ s w, P s → P (s.setCmd w)
  setOperand : ∀ s n w, P s → P (s.setOperand n w)
  fail : ∀ s c, P s → P (s.fail c)
  exec : ∀ i s t, P s → exec i s = .next t → P t
  powerCycle : ∀ s, P s → P s.powerCycle

theorem KeptByPort.regWrite {P : State → Prop} (k : KeptByPort P) {n : Nat} {w : Word} {s t : State} (hs : P s)
    (h : regWrite n w s = .next t) : P t := by
  rcases regWrite_eq_next h with ⟨-, -, rfl⟩ | ⟨i, -, -, e⟩ | ⟨-, rfl⟩
  · exact k.fail _ _ (k.setCmd _ _ hs)
  · exact k.exec i _ _ (k.setCmd _ _ hs) e
  · exact k.setOperand _ _ _ hs

theorem KeptByPort.step {P : State → Prop} (k : KeptByPort P) {s t : State} (hs : P s) (h : step s = .next t) :
    P t := by
  rcases step_eq_next h with ⟨-, rfl⟩ | ⟨e, rest, -, access⟩
  · exact hs
  · have taken : P (s.setInputs rest) := k.setInputs _ _ hs
    rcases access with ⟨o, rfl⟩ | ⟨n, w, u, hu, rfl⟩ | rfl
    · exact k.observe _ _ taken
    · have written : P u := k.regWrite taken hu
      split
      · exact k.observe _ _ written
      · exact written
    · exact k.powerCycle _ taken

/-! ## The parameters -/

/-- No command writes CMD, an operand register, the table or the model's own two fields (R23, R24, R34). -/
theorem exec_sameHostSide {i : Instr} {s t : State} (h : exec i s = .next t) : s.SameHostSide t := by
  rcases exec_eq_next h with ⟨k, -, -, rfl⟩ | ⟨-, -, rfl⟩ | ⟨idx, -, -, rfl⟩ | ⟨idx, -, -, rfl⟩ | ⟨-, rfl⟩ |
    ⟨idx, -, -, rfl⟩ | ⟨idx, -, -, rfl⟩
  all_goals exact ⟨rfl, rfl, rfl, rfl, rfl, rfl, rfl, fun _ => rfl, rfl, rfl⟩

theorem exec_nVoices {i : Instr} {s t : State} (h : exec i s = .next t) : t.nVoices = s.nVoices := by
  rcases exec_eq_next h with ⟨k, -, -, rfl⟩ | ⟨-, -, rfl⟩ | ⟨idx, -, -, rfl⟩ | ⟨idx, -, -, rfl⟩ | ⟨-, rfl⟩ |
    ⟨idx, -, -, rfl⟩ | ⟨idx, -, -, rfl⟩
  all_goals simp

@[simp] theorem State.powerCycle_nVoices (s : State) : s.powerCycle.nVoices = s.nVoices :=
  List.length_replicate

/-- The number of voices and the table are those given. -/
def State.HasParameters (n : Nat) (wave : Vector Entry 256) (s : State) : Prop :=
  s.nVoices = n ∧ ∀ k : BitVec 8, waveEntry s.wave k = waveEntry wave k

theorem hasParameters_keptByPort (n : Nat) (wave : Vector Entry 256) :
    KeptByPort (State.HasParameters n wave) where
  setInputs _ _ h := h
  observe _ _ h := h
  setCmd _ _ h := h
  setOperand s m w h := by simpa [State.HasParameters] using h
  fail _ _ h := h
  exec i s t h e := ⟨(exec_nVoices e).trans h.1, fun k => ((exec_sameHostSide e).wave k).trans (h.2 k)⟩
  powerCycle s h := ⟨s.powerCycle_nVoices.trans h.1, h.2⟩

/-- Settles O51: each operation of the port keeps both parameters. -/
theorem parametersNeverChange : Obligations.ParametersNeverChange :=
  fun s _ h => (hasParameters_keptByPort s.nVoices s.wave).step ⟨rfl, fun _ => rfl⟩ h

/-! ## The weak pool invariant (R30) under the writes of a command -/

/-- Putting an active voice in the bank and raising HAI to it, as ALLOC and REL do. -/
theorem State.WeakPool.activate {s : State} (h : s.WeakPool) (i : Nat) (v : Voice) :
    ((s.setVoice i v).raiseHai i).WeakPool := by
  intro j above inBank
  simp only [State.raiseHai_hai, State.setVoice_hai, State.raiseHai_nVoices, State.setVoice_nVoices,
    State.raiseHai_voice] at above inBank ⊢
  rw [State.setVoice_voice_ne v (by omega)]
  exact h j (by omega) inBank

/-- One sample of each voice up to HAI. -/
theorem State.WeakPool.advanceVisited {s : State} (h : s.WeakPool) : s.advanceVisited.WeakPool := by
  intro j above inBank
  simp only [State.advanceVisited_hai, State.advanceVisited_nVoices] at above inBank
  rw [State.advanceVisited_voice, if_neg (by unfold State.visited; omega)]
  exact h j above inBank

/-- RECLAIM leaves HAI alone or brings it down over DONE voices to an active one, or to NONE (R125). -/
theorem reclaimedHai_spec (s : State) (i : Nat) :
    reclaimedHai s i = s.hai ∨
      -1 ≤ reclaimedHai s i ∧ reclaimedHai s i ≤ s.hai ∧
        (∀ j : Nat, reclaimedHai s i < j → (j : Int) ≤ s.hai → (s.voice j).isDone = true) := by
  unfold reclaimedHai
  split
  · next e =>
    obtain ⟨low, below, above, -⟩ := s.scanDown_spec (i + 1)
    exact .inr ⟨low, by omega, fun j hj hle => above j hj (by omega)⟩
  · exact .inl rfl

theorem State.WeakPool.reclaim {s : State} (h : s.WeakPool) (i : Nat) :
    (s.setHai (reclaimedHai s i)).WeakPool := by
  intro j above inBank
  rcases reclaimedHai_spec s i with same | ⟨-, -, done⟩
  · exact h j (same ▸ above) inBank
  · by_cases hle : (j : Int) ≤ s.hai
    · exact done j above hle
    · exact h j (by omega) inBank

/-! ## HAI in range, the weak pool and the silent DONE voices: R29, R30, R31 -/

/-- The three parts of the invariant that speak of the voices and of HAI only. -/
structure State.PoolInv (s : State) : Prop where
  sized : s.WellSized
  pool : s.WeakPool
  silent : s.DoneSilent

theorem State.PoolInv.congr {s t : State} (h : s.PoolInv) (voices : t.voices = s.voices) (hai : t.hai = s.hai) :
    t.PoolInv := by
  obtain ⟨sized, pool, silent⟩ := h
  constructor
  · simpa [State.WellSized, State.nVoices, voices, hai] using sized
  · simpa [State.WeakPool, State.nVoices, State.voice, voices, hai] using pool
  · simpa [State.DoneSilent, State.nVoices, State.voice, voices] using silent

theorem State.PoolInv.activate {s : State} (h : s.PoolInv) {i : Nat} (hi : i < s.nVoices) {v : Voice}
    (hv : v.isDone = false) : ((s.setVoice i v).raiseHai i).PoolInv := by
  obtain ⟨⟨legal, low, high⟩, pool, silent⟩ := h
  refine ⟨⟨?_, ?_, ?_⟩, pool.activate i v, fun j inBank done => ?_⟩
  · simpa using legal
  · simp only [State.raiseHai_hai, State.setVoice_hai]; omega
  · simp only [State.raiseHai_hai, State.setVoice_hai, State.raiseHai_nVoices, State.setVoice_nVoices]; omega
  · simp only [State.raiseHai_nVoices, State.setVoice_nVoices, State.raiseHai_voice] at inBank done ⊢
    rcases eq_or_ne j i with rfl | ne
    · simp [State.setVoice_voice_self v hi, hv] at done
    · rw [State.setVoice_voice_ne v ne] at done ⊢
      exact silent j inBank done

theorem State.PoolInv.reclaim {s : State} (h : s.PoolInv) (i : Nat) :
    (s.setHai (reclaimedHai s i)).PoolInv := by
  obtain ⟨⟨legal, low, high⟩, pool, silent⟩ := h
  refine ⟨⟨legal, ?_, ?_⟩, pool.reclaim i, silent⟩
  all_goals
    simp only [State.setHai_hai, State.setHai_nVoices]
    rcases reclaimedHai_spec s i with same | ⟨_, _, -⟩
    all_goals omega

/-- A voice enters DONE at level 0 only: from FALLING with a sustain level of 0, or from RELEASED at 0 (R94, R96). -/
theorem Voice.envStep_level_of_done {v : Voice} (h : v.envStep.envelopeState = .done) : v.envStep.level = 0#32 := by
  cases e : v.envelopeState with
  | rising =>
    by_cases c : 4294967295 < v.level.toNat + v.attackRate.toNat
    · simp [Voice.envStep_rising_carry e c] at h
    · simp [Voice.envStep_rising e (by omega), e] at h
  | falling =>
    by_cases c : v.level.toNat < v.decayRate.toNat ∨ v.level.toNat - v.decayRate.toNat ≤ v.sustainLevel.toNat
    · rw [Voice.envStep_falling_reached e c] at h ⊢
      exact (afterDecay_done_iff _).1 h
    · simp [Voice.envStep_falling e (by omega) (by omega), e] at h
  | sustain =>
    by_cases c : v.cyclesRemaining.toInt ≤ 0
    · simp [Voice.envStep_sustain_elapsed e c] at h
    · simp [Voice.envStep_sustain e (by omega), e] at h
  | released =>
    by_cases c : v.level.toNat ≤ v.releaseRate.toNat
    · rw [Voice.envStep_released_reached e c]
    · simp [Voice.envStep_released e (by omega), e] at h
  | done => rw [Voice.envStep_done e]

/-- One sample leaves a DONE voice at level 0, if it found a DONE voice so (R31). -/
theorem Voice.advance_level_of_done {v : Voice} (before : v.isDone = true → v.level = 0#32)
    (after : v.advance.isDone = true) : v.advance.level = 0#32 := by
  by_cases d : v.envelopeState = .done
  · rw [Voice.advance_of_done d]
    exact before (v.isDone_iff.2 d)
  · rw [Voice.isDone_iff, Voice.advance_of_active d] at after
    rw [Voice.advance_of_active d]
    exact Voice.envStep_level_of_done after

theorem State.PoolInv.advanceVisited {s : State} (h : s.PoolInv) : s.advanceVisited.PoolInv := by
  obtain ⟨sized, pool, silent⟩ := h
  refine ⟨by simpa [State.WellSized] using sized, pool.advanceVisited, fun j inBank done => ?_⟩
  rw [State.advanceVisited_nVoices] at inBank
  rw [State.advanceVisited_voice] at done ⊢
  by_cases visited : j < s.visited
  · rw [if_pos visited] at done ⊢
    exact Voice.advance_level_of_done (silent j inBank) done
  · rw [if_neg visited] at done ⊢
    exact silent j inBank done

theorem exec_keeps_poolInv {i : Instr} {s t : State} (h : s.PoolInv) (e : exec i s = .next t) : t.PoolInv := by
  rcases exec_eq_next e with ⟨k, -, free, rfl⟩ | ⟨-, -, rfl⟩ | ⟨idx, -, hi, rfl⟩ | ⟨idx, -, -, rfl⟩ | ⟨-, rfl⟩ |
    ⟨idx, -, -, rfl⟩ | ⟨idx, -, -, rfl⟩
  · exact (h.activate (State.firstFree_eq_some.1 free).1 (Voice.reset_isDone s.note)).congr rfl rfl
  · exact h.congr rfl rfl
  · exact (h.activate hi (s.voice idx.toNat).release_isDone).congr rfl rfl
  · exact (h.reclaim idx.toNat).congr rfl rfl
  · exact h.advanceVisited.congr rfl rfl
  · exact h.congr rfl rfl
  · exact h.congr rfl rfl

theorem powerOn_voice (n : Nat) (wave : Vector Entry 256) (i : Nat) :
    (State.powerOn n wave).voice i = Voice.free := by
  simp [State.voice, State.powerOn]

@[simp] theorem powerOn_nVoices (n : Nat) (wave : Vector Entry 256) : (State.powerOn n wave).nVoices = n :=
  List.length_replicate

theorem powerOn_weakPool (n : Nat) (wave : Vector Entry 256) : (State.powerOn n wave).WeakPool :=
  fun i _ _ => by rw [powerOn_voice]; rfl

theorem powerOn_poolInv {n : Nat} (wave : Vector Entry 256) (h : legalBankSize n = true) :
    (State.powerOn n wave).PoolInv where
  sized := ⟨by rwa [powerOn_nVoices], Int.le_refl (-1),
    (show (-1 : Int) < 0 by decide).trans_le (Int.natCast_nonneg _)⟩
  pool := powerOn_weakPool n wave
  silent i _ _ := by rw [powerOn_voice]; rfl

/-! ## The response registers (R25) -/

theorem codeWord_toNat_le (c : ResponseCode) : (codeWord c).toNat ≤ 3 := by
  cases c <;> decide

theorem State.respond_ok_legal (s : State) (r : Word) : (s.respond .ok r).ResponseLegal :=
  ⟨codeWord_toNat_le .ok, fun h => absurd rfl h⟩

theorem State.fail_legal (s : State) (c : ResponseCode) : (s.fail c).ResponseLegal :=
  ⟨codeWord_toNat_le c, fun _ => rfl⟩

theorem exec_responseLegal {i : Instr} {s t : State} (h : exec i s = .next t) : t.ResponseLegal := by
  rcases exec_eq_next h with ⟨k, -, -, rfl⟩ | ⟨-, -, rfl⟩ | ⟨idx, -, -, rfl⟩ | ⟨idx, -, -, rfl⟩ | ⟨-, rfl⟩ |
    ⟨idx, -, -, rfl⟩ | ⟨idx, -, -, rfl⟩
  · exact State.respond_ok_legal _ _
  · exact State.fail_legal _ _
  · exact State.respond_ok_legal _ _
  · exact State.respond_ok_legal _ _
  · exact State.respond_ok_legal _ _
  · exact State.respond_ok_legal _ _
  · exact State.fail_legal _ _

theorem powerOn_responseLegal (n : Nat) (wave : Vector Entry 256) : (State.powerOn n wave).ResponseLegal :=
  ⟨codeWord_toNat_le .ok, fun h => absurd rfl h⟩

/-! ## The invariant -/

theorem State.inv_iff {s : State} : s.Inv ↔ s.PoolInv ∧ s.ResponseLegal :=
  ⟨fun ⟨sized, pool, silent, response⟩ => ⟨⟨sized, pool, silent⟩, response⟩,
    fun ⟨⟨sized, pool, silent⟩, response⟩ => ⟨sized, pool, silent, response⟩⟩

/-- The invariant speaks of the voices, HAI and the two response registers only. -/
theorem State.Inv.congr {s t : State} (h : s.Inv) (voices : t.voices = s.voices) (hai : t.hai = s.hai)
    (rcode : t.rcode = s.rcode) (result : t.result = s.result) : t.Inv := by
  obtain ⟨pool, response⟩ := State.inv_iff.1 h
  exact State.inv_iff.2 ⟨pool.congr voices hai, by simpa [State.ResponseLegal, rcode, result] using response⟩

theorem powerOn_inv {n : Nat} (wave : Vector Entry 256) (h : legalBankSize n = true) : (State.powerOn n wave).Inv :=
  State.inv_iff.2 ⟨powerOn_poolInv wave h, powerOn_responseLegal n wave⟩

theorem inv_keptByPort : KeptByPort State.Inv where
  setInputs _ _ h := h.congr rfl rfl rfl rfl
  observe _ _ h := h.congr rfl rfl rfl rfl
  setCmd _ _ h := h.congr rfl rfl rfl rfl
  setOperand s n w h := h.congr (s.setOperand_voices n w) (s.setOperand_hai n w) (s.setOperand_rcode n w)
    (s.setOperand_result n w)
  fail s c h := State.inv_iff.2 ⟨(State.inv_iff.1 h).1.congr rfl rfl, s.fail_legal c⟩
  exec _ _ _ h e := State.inv_iff.2 ⟨exec_keeps_poolInv (State.inv_iff.1 h).1 e, exec_responseLegal e⟩
  powerCycle s h := (powerOn_inv s.wave h.sized.1).congr rfl rfl rfl rfl

/-- Settles O46: every voice is free at power-on, HAI is NONE and RCODE is OK. -/
theorem resetStateHasTheInvariant : Obligations.ResetStateHasTheInvariant :=
  ⟨powerOn_inv defaultWave (by decide), fun n wave h1 h2 =>
    powerOn_inv wave (by simp [legalBankSize, Config.maxVoices, h1, h2])⟩

/-- Settles O47: each operation of the port keeps the invariant. -/
theorem everyStepKeepsTheInvariant : Obligations.EveryStepKeepsTheInvariant :=
  fun _ _ h e => inv_keptByPort.step h e

theorem Reachable.inv {s : State} (h : Reachable s) : s.Inv := by
  induction h with
  | start n wave inputs legal => exact (powerOn_inv wave legal).congr rfl rfl rfl rfl
  | next s t _ st ih => exact inv_keptByPort.step ih st

/-- Settles O48: both are parts of the invariant, which every reachable state has. -/
theorem poolAndVoiceInvariants : Obligations.PoolAndVoiceInvariants := by
  intro s h
  refine ⟨fun i above inBank => ?_, fun i inBank done => ?_⟩
  · exact (s.voice i).isDone_iff.1 (h.inv.pool i above inBank)
  · exact h.inv.silent i inBank ((s.voice i).isDone_iff.2 done)

end Sys2Proof.Machine
end

section
/-! PROOFS. What no command can observe (spec/10_state.md R35, spec/93_implementation_defined.md U12): every operation
of the model takes indistinct states to indistinct states, so a run of the block cannot tell them apart. -/

namespace Sys2Proof.Machine

/-! ## Indistinct voices -/

theorem Voice.Indistinct.refl (v : Voice) : v.Indistinct v := .inl rfl

theorem Voice.Indistinct.envelopeState_eq {v w : Voice} (h : v.Indistinct w) :
    v.envelopeState = w.envelopeState := by
  rcases h with rfl | ⟨-, -, e⟩
  · rfl
  · exact e

theorem Voice.Indistinct.isDone_eq {v w : Voice} (h : v.Indistinct w) : v.isDone = w.isDone := by
  rw [Voice.isDone, Voice.isDone, h.envelopeState_eq]

theorem Voice.Indistinct.release {v w : Voice} (h : v.Indistinct w) : v.release.Indistinct w.release := by
  rcases h with rfl | ⟨⟨hv, -⟩, ⟨hw, -⟩, -⟩
  · exact .refl _
  · exact .inr ⟨⟨hv, .inr rfl⟩, ⟨hw, .inr rfl⟩, rfl⟩

/-- A mute voice is DONE at level 0 after one envelope step: RELEASED at level 0 has reached zero (R96). -/
theorem Voice.mute.envStep {v : Voice} (h : v.mute) :
    v.envStep.level = 0#32 ∧ v.envStep.envelopeState = .done := by
  obtain ⟨level, done | released⟩ := h
  · rw [Voice.envStep_done done]
    exact ⟨rfl, done⟩
  · rw [Voice.envStep_released_reached released (by simp [level])]
    exact ⟨rfl, rfl⟩

theorem Voice.mute.advance {v : Voice} (h : v.mute) :
    v.advance.level = 0#32 ∧ v.advance.envelopeState = .done := by
  by_cases done : v.envelopeState = .done
  · rw [Voice.advance_of_done done]
    exact ⟨h.1, done⟩
  · rw [Voice.advance_of_active done]
    exact h.envStep

theorem Voice.mute.sample {v : Voice} (h : v.mute) (wave : Vector Entry 256) : v.sample wave = 0 := by
  by_cases done : v.envelopeState = .done
  · exact Voice.sample_of_done wave done
  · rw [Voice.sample_of_active wave done, h.envStep.1, sampleAt_level_zero]

theorem Voice.Indistinct.advance {v w : Voice} (h : v.Indistinct w) : v.advance.Indistinct w.advance := by
  rcases h with rfl | ⟨hv, hw, -⟩
  · exact .refl _
  · obtain ⟨lv, ev⟩ := hv.advance
    obtain ⟨lw, ew⟩ := hw.advance
    exact .inr ⟨⟨lv, .inl ev⟩, ⟨lw, .inl ew⟩, ev.trans ew.symm⟩

theorem Voice.Indistinct.sample_eq {v w : Voice} (h : v.Indistinct w) (wave : Vector Entry 256) :
    v.sample wave = w.sample wave := by
  rcases h with rfl | ⟨hv, hw, -⟩
  · rfl
  · rw [hv.sample, hw.sample]

/-! ## Indistinct voice files -/

/-- Two voice files of one length whose voices are pairwise indistinct. -/
abbrev IndistinctVoices (vs ws : List Voice) : Prop := List.Forall₂ Voice.Indistinct vs ws

section
variable {vs ws : List Voice} (h : IndistinctVoices vs ws)
include h

theorem IndistinctVoices.getD (i : Nat) : (vs.getD i Voice.free).Indistinct (ws.getD i Voice.free) := by
  induction h generalizing i with
  | nil => exact .refl _
  | cons hv _ ih =>
    cases i with
    | zero => exact hv
    | succ i => exact ih i

theorem IndistinctVoices.set (i : Nat) {v w : Voice} (hvw : v.Indistinct w) :
    IndistinctVoices (vs.set i v) (ws.set i w) := by
  induction h generalizing i with
  | nil => exact .nil
  | cons hv hvs ih =>
    cases i with
    | zero => exact .cons hvw hvs
    | succ i => exact .cons hv (ih i)

theorem IndistinctVoices.findIdx?_isDone : vs.findIdx? Voice.isDone = ws.findIdx? Voice.isDone := by
  induction h with
  | nil => rfl
  | cons hv _ ih => rw [List.findIdx?_cons, List.findIdx?_cons, hv.isDone_eq, ih]

theorem IndistinctVoices.advance (k : Nat) : IndistinctVoices (advanceVoices k vs) (advanceVoices k ws) := by
  induction h generalizing k with
  | nil => cases k <;> exact .nil
  | cons hv hvs ih =>
    cases k with
    | zero => exact .cons hv hvs
    | succ k => exact .cons hv.advance (ih k)

theorem IndistinctVoices.mix (wave : Vector Entry 256) (k : Nat) (acc : Int) :
    mixVoices wave k vs acc = mixVoices wave k ws acc := by
  induction h generalizing k acc with
  | nil => rfl
  | cons hv _ ih =>
    cases k with
    | zero => rfl
    | succ k => rw [mixVoices, mixVoices, hv.sample_eq, ih]

theorem IndistinctVoices.activeSum (i : Nat) : activeSum i vs = activeSum i ws := by
  induction h generalizing i with
  | nil => rfl
  | cons hv _ ih => rw [Machine.activeSum, Machine.activeSum, hv.isDone_eq, ih]

end

/-! ## Indistinct states: what is read of them is the same, what is written keeps them indistinct -/

/-- Indistinct states are one state with two indistinct voice files. -/
theorem State.indistinct_iff {s t : State} :
    s.Indistinct t ↔ ∃ vs, IndistinctVoices s.voices vs ∧ t = { s with voices := vs } := by
  constructor
  · rintro ⟨h, e⟩
    exact ⟨t.voices, h, e.symm⟩
  · rintro ⟨vs, h, rfl⟩
    exact ⟨h, rfl⟩

section
variable {s t : State} (h : s.Indistinct t)
include h

theorem State.Indistinct.nVoices_eq : s.nVoices = t.nVoices := h.1.length_eq

theorem State.Indistinct.voice (i : Nat) : (s.voice i).Indistinct (t.voice i) := IndistinctVoices.getD h.1 i

theorem State.Indistinct.firstFree_eq : s.firstFree = t.firstFree := IndistinctVoices.findIdx?_isDone h.1

theorem State.Indistinct.scanDown_eq (k : Nat) : s.scanDown k = t.scanDown k := by
  induction k with
  | zero => rfl
  | succ k ih => rw [State.scanDown, State.scanDown, (h.voice k).isDone_eq, ih]

theorem State.Indistinct.hai_eq : s.hai = t.hai := by
  obtain ⟨vs, -, rfl⟩ := State.indistinct_iff.1 h
  rfl

theorem State.Indistinct.note_eq : s.note = t.note := by
  obtain ⟨vs, -, rfl⟩ := State.indistinct_iff.1 h
  rfl

theorem State.Indistinct.inputs_eq : s.inputs = t.inputs := by
  obtain ⟨vs, -, rfl⟩ := State.indistinct_iff.1 h
  rfl

theorem State.Indistinct.trace_eq : s.trace = t.trace := by
  obtain ⟨vs, -, rfl⟩ := State.indistinct_iff.1 h
  rfl

theorem State.Indistinct.mix_eq :
    mixVoices s.wave s.visited s.voices 0 = mixVoices t.wave t.visited t.voices 0 := by
  obtain ⟨vs, hvs, rfl⟩ := State.indistinct_iff.1 h
  exact hvs.mix _ _ _

theorem State.Indistinct.regRead_eq (n : Nat) : s.regRead n = t.regRead n := by
  have status : s.status = t.status := by rw [State.status, State.status, h.nVoices_eq, h.hai_eq]
  have active : s.active = t.active := by rw [State.active, State.active, IndistinctVoices.activeSum h.1]
  obtain ⟨vs, -, rfl⟩ := State.indistinct_iff.1 h
  unfold State.regRead
  split
  · rfl
  · rfl
  · rfl
  · exact status
  · exact active
  · rfl

theorem State.Indistinct.respond (c : ResponseCode) (r : Word) : (s.respond c r).Indistinct (t.respond c r) := by
  obtain ⟨vs, hvs, rfl⟩ := State.indistinct_iff.1 h
  exact ⟨hvs, rfl⟩

theorem State.Indistinct.fail (c : ResponseCode) : (s.fail c).Indistinct (t.fail c) := h.respond c _

theorem State.Indistinct.setHai (x : Int) : (s.setHai x).Indistinct (t.setHai x) := by
  obtain ⟨vs, hvs, rfl⟩ := State.indistinct_iff.1 h
  exact ⟨hvs, rfl⟩

theorem State.Indistinct.raiseHai (i : Nat) : (s.raiseHai i).Indistinct (t.raiseHai i) := by
  rw [State.raiseHai, State.raiseHai, h.hai_eq]
  exact h.setHai _

theorem State.Indistinct.setVoice (i : Nat) {v w : Voice} (hvw : v.Indistinct w) :
    (s.setVoice i v).Indistinct (t.setVoice i w) := by
  obtain ⟨vs, hvs, rfl⟩ := State.indistinct_iff.1 h
  exact ⟨hvs.set i hvw, rfl⟩

theorem State.Indistinct.advanceVisited : s.advanceVisited.Indistinct t.advanceVisited := by
  obtain ⟨vs, hvs, rfl⟩ := State.indistinct_iff.1 h
  exact ⟨hvs.advance _, rfl⟩

theorem State.Indistinct.setCmd (w : Word) : (s.setCmd w).Indistinct (t.setCmd w) := by
  obtain ⟨vs, hvs, rfl⟩ := State.indistinct_iff.1 h
  exact ⟨hvs, rfl⟩

theorem State.Indistinct.setInputs (es : List HostEvent) : (s.setInputs es).Indistinct (t.setInputs es) := by
  obtain ⟨vs, hvs, rfl⟩ := State.indistinct_iff.1 h
  exact ⟨hvs, rfl⟩

theorem State.Indistinct.observe (o : Observation) : (s.observe o).Indistinct (t.observe o) := by
  obtain ⟨vs, hvs, rfl⟩ := State.indistinct_iff.1 h
  exact ⟨hvs, rfl⟩

theorem State.Indistinct.observeResponse : s.observeResponse.Indistinct t.observeResponse := by
  obtain ⟨vs, hvs, rfl⟩ := State.indistinct_iff.1 h
  exact ⟨hvs, rfl⟩

theorem State.Indistinct.setOperand (n : Nat) (w : Word) : (s.setOperand n w).Indistinct (t.setOperand n w) := by
  obtain ⟨vs, hvs, rfl⟩ := State.indistinct_iff.1 h
  refine State.indistinct_iff.2 ⟨vs, by simpa using hvs, ?_⟩
  unfold State.setOperand
  split <;> rfl

theorem State.Indistinct.powerCycle : s.powerCycle.Indistinct t.powerCycle := by
  obtain ⟨vs, hvs, rfl⟩ := State.indistinct_iff.1 h
  have same : State.nVoices { s with voices := vs } = s.nVoices := hvs.length_eq.symm
  simp only [State.powerCycle, same]
  exact ⟨List.forall₂_same.2 fun v _ => .refl v, rfl⟩

end

/-! ## Alike outcomes -/

/-- Two outcomes the host cannot tell apart: indistinct next states, or the same refusal. (No fault is possible.) -/
inductive Alike : Host.Outcome State Fault Refusal → Host.Outcome State Fault Refusal → Prop where
  | next {s t : State} (h : s.Indistinct t) : Alike (.next s) (.next t)
  | refused (r : Refusal) : Alike (.refused r) (.refused r)

theorem Alike.of_next {s : State} {o : Host.Outcome State Fault Refusal} (h : Alike (.next s) o) :
    ∃ t, o = .next t ∧ s.Indistinct t := by
  cases h with
  | next h => exact ⟨_, rfl, h⟩

theorem Alike.of_refused {r : Refusal} {o : Host.Outcome State Fault Refusal} (h : Alike (.refused r) o) :
    o = .refused r := by
  cases h with
  | refused => rfl

theorem Alike.andThen {o p : Host.Outcome State Fault Refusal} {f g : State → Host.Outcome State Fault Refusal}
    (h : Alike o p) (hf : ∀ s t : State, s.Indistinct t → Alike (f s) (g t)) :
    Alike (andThen o f) (andThen p g) := by
  cases h with
  | next h => exact hf _ _ h
  | refused r => exact .refused r

section
variable {s t : State} (h : s.Indistinct t)
include h

theorem withIndex_alike (idx : BitVec 8) {f g : Nat → State} (hf : ∀ i, (f i).Indistinct (g i)) :
    Alike (withIndex idx s f) (withIndex idx t g) := by
  by_cases inBank : idx.toNat < s.nVoices
  · rw [withIndex_of_lt f inBank, withIndex_of_lt g (h.nVoices_eq ▸ inBank)]
    exact .next (hf _)
  · have outside : s.nVoices ≤ idx.toNat := Nat.not_lt.1 inBank
    rw [withIndex_of_ge f outside, withIndex_of_ge g (h.nVoices_eq ▸ outside)]
    exact .next (h.fail _)

theorem State.Indistinct.allocate (i : Nat) : (s.allocate i).Indistinct (t.allocate i) := by
  rw [State.allocate, State.allocate, h.note_eq]
  exact ((h.setVoice i (.refl _)).raiseHai i).respond _ _

theorem execAlloc_alike : Alike (execAlloc s) (execAlloc t) := by
  rw [execAlloc, execAlloc, ← h.firstFree_eq]
  cases s.firstFree with
  | none => exact .next (h.fail _)
  | some i => exact .next (h.allocate i)

/-- No command tells indistinct states apart. -/
theorem exec_alike (i : Instr) : Alike (exec i s) (exec i t) := by
  cases i with
  | alloc => exact execAlloc_alike h
  | rel idx => exact withIndex_alike h idx fun i => ((h.setVoice i (h.voice i).release).raiseHai i).respond _ _
  | reclaim idx =>
    rw [exec, exec, execReclaim, execReclaim]
    refine withIndex_alike h idx fun i => ?_
    rw [← h.hai_eq, ← h.scanDown_eq]
    split
    · exact (h.setHai _).respond _ _
    · exact h.respond _ _
  | mix =>
    rw [exec, exec, execMix_eq, execMix_eq, ← h.mix_eq]
    exact .next (h.advanceVisited.respond _ _)
  | isdone idx =>
    rw [exec, exec, execIsdone, execIsdone]
    refine withIndex_alike h idx fun i => ?_
    rw [(h.voice i).isDone_eq]
    exact h.respond _ _

theorem regWrite_alike (n : Nat) (w : Word) : Alike (regWrite n w s) (regWrite n w t) := by
  by_cases zero : n = 0
  · subst zero
    rw [regWrite_zero, regWrite_zero]
    cases d : decode w with
    | illegal why =>
      rw [execute_illegal d, execute_illegal d]
      exact .next ((h.setCmd w).fail _)
    | instr i =>
      rw [execute_instr d, execute_instr d]
      exact exec_alike (h.setCmd w) i
  · rw [regWrite_pos zero, regWrite_pos zero]
    exact .next (h.setOperand n w)

theorem hostWrite_alike (n : Nat) (w : Word) : Alike (hostWrite n w s) (hostWrite n w t) := by
  refine (regWrite_alike h n w).andThen fun u v huv => ?_
  split
  · exact .next huv.observeResponse
  · exact .next huv

theorem hostAccess_alike (e : HostEvent) : Alike (hostAccess e s) (hostAccess e t) := by
  cases e with
  | read n =>
    rw [hostAccess, hostAccess, h.regRead_eq]
    exact .next (h.observe _)
  | write n w => exact hostWrite_alike h n w
  | busRead offset width =>
    rw [hostAccess, hostAccess, h.regRead_eq]
    split
    · exact .next (h.observe _)
    · exact .refused _
  | busWrite offset bytes =>
    rw [hostAccess, hostAccess]
    split
    · exact hostWrite_alike h _ _
    · exact .refused _
  | powerOnReset => exact .next h.powerCycle

theorem step_alike : Alike (step s) (step t) := by
  cases e : s.inputs with
  | nil =>
    rw [step_idle e, step_idle (h.inputs_eq ▸ e)]
    exact .next h
  | cons e' rest =>
    rw [step_event e, step_event (h.inputs_eq ▸ e)]
    exact hostAccess_alike (h.setInputs rest) e'

end

/-- Settles O52: the outcomes of the two steps are alike. -/
theorem unobservableFieldsStayUnobservable : Obligations.UnobservableFieldsStayUnobservable := by
  intro s t h
  refine ⟨fun s' hs => ?_, fun r hs => ?_⟩
  · obtain ⟨t', ht, h'⟩ := (hs ▸ step_alike h).of_next
    exact ⟨t', ht, h', h'.trace_eq⟩
  · exact (hs ▸ step_alike h).of_refused

/-! ## Runs -/

/-- A run that reaches a state has, from an indistinct state, an indistinct run. -/
theorem core_run_indistinct {k : Nat} {s t s' : State} (h : s.Indistinct t)
    (run : Host.Core.run core k s = .next s') : ∃ t', Host.Core.run core k t = .next t' ∧ s'.Indistinct t' := by
  induction k generalizing s t with
  | zero => cases run; exact ⟨t, rfl, h⟩
  | succ k ih =>
    cases e : step s with
    | next u =>
      obtain ⟨v, ht, huv⟩ := (e ▸ step_alike h).of_next
      rw [core_run_next e] at run
      rw [core_run_next ht]
      exact ih huv run
    | fault r => cases r
    | refused r => rw [core_run_refused e] at run; cases run

/-- Voices that are DONE at level 0 are indistinct from the voices of power-on reset. -/
theorem indistinct_replicate_free (vs : List Voice) (h : ∀ v ∈ vs, v.envelopeState = .done ∧ v.level = 0#32) :
    IndistinctVoices (List.replicate vs.length Voice.free) vs := by
  induction vs with
  | nil => exact .nil
  | cons v vs ih =>
    obtain ⟨⟨done, level⟩, rest⟩ := List.forall_mem_cons.1 h
    exact .cons (.inr ⟨⟨rfl, .inl rfl⟩, ⟨level, .inl done⟩, done.symm⟩) (ih rest)

/-- Settles O53: the two banks are indistinct at the start, so they are after any number of steps. -/
theorem resetValuesOfVoiceFieldsDoNotMatter : Obligations.ResetValuesOfVoiceFieldsDoNotMatter := by
  rintro n wave inputs vs k s rfl silent run
  have start : State.Indistinct { State.powerOn vs.length wave with inputs := inputs }
      { State.powerOn vs.length wave with inputs := inputs, voices := vs } :=
    ⟨indistinct_replicate_free vs silent, rfl⟩
  obtain ⟨t, ht, h⟩ := core_run_indistinct start run
  exact ⟨t, ht, h.trace_eq.symm⟩

end Sys2Proof.Machine
end

section
/-! PROOFS. What the registers read (spec/10_state.md R24, R26, R35): the fields of STATUS, the bits of ACTIVE, the
registers at power-on, and the registers after a write. -/

namespace Sys2Proof.Machine

/-! ## STATUS and ACTIVE -/

/-- STATUS as a number: the HAI field in the low byte, the number of voices above it. -/
theorem State.status_eq {s : State} (h : haiField s.hai < 256) :
    s.status = BitVec.ofNat 32 (s.nVoices * 256 + haiField s.hai) := by
  rw [State.status, ← Nat.shiftLeft_add_eq_or_of_lt (by simpa using h), Nat.shiftLeft_eq]

theorem haiField_none : haiField (-1) = 255 := rfl

theorem haiField_of_nonneg {h : Int} (nonneg : 0 ≤ h) : haiField h = h.toNat := by
  rw [haiField, if_neg (by omega)]

theorem State.WellSized.nVoices_le {s : State} (h : s.WellSized) : s.nVoices ≤ 32 := by
  obtain ⟨legal, -, -⟩ := h
  exact of_decide_eq_true (Bool.and_eq_true_iff.1 legal).2

theorem State.WellSized.haiField_lt {s : State} (h : s.WellSized) : haiField s.hai < 256 := by
  have bank := h.nVoices_le
  obtain ⟨-, low, high⟩ := h
  rcases eq_or_ne s.hai (-1) with none | voice
  · simp [none, haiField_none]
  · rw [haiField_of_nonneg (by omega)]; omega

/-- The three fields of the word with `n` in bits [15:8] and `f` in bits [7:0]. -/
theorem fields_of_bytes {n f : Nat} (hn : n < 256) (hf : f < 256) :
    ((BitVec.ofNat 32 (n * 256 + f)).extractLsb' 0 8).toNat = f ∧
      ((BitVec.ofNat 32 (n * 256 + f)).extractLsb' 8 8).toNat = n ∧
      (BitVec.ofNat 32 (n * 256 + f)).extractLsb' 16 16 = 0#16 := by
  simp only [BitVec.toNat_eq, BitVec.extractLsb'_toNat, BitVec.toNat_ofNat, Nat.shiftRight_eq_div_pow]
  omega

/-- Bit `i` of ACTIVE (R26). -/
theorem State.active_getLsbD {s : State} (h : s.nVoices ≤ 32) (i : Nat) :
    s.active.getLsbD i = true ↔ i < s.nVoices ∧ (s.voice i).envelopeState ≠ .done := by
  have bit := activeSum_testBit 0 s.voices i
  simp only [Nat.zero_le, Nat.zero_add, Nat.sub_zero, true_and] at bit
  rw [State.active, BitVec.getLsbD_ofNat, Bool.and_eq_true, decide_eq_true_eq, bit]
  exact and_iff_right_of_imp fun ⟨inBank, _⟩ => Nat.lt_of_lt_of_le inBank h

/-- Settles O38: STATUS is its two bytes, and ACTIVE a sum of distinct powers of two. -/
theorem statusAndActiveFields : Obligations.StatusAndActiveFields := by
  intro s h
  have bank := h.nVoices_le
  have field := h.haiField_lt
  obtain ⟨low, size, reserved⟩ := fields_of_bytes (n := s.nVoices) (by omega) field
  rw [← State.status_eq field] at low size reserved
  obtain ⟨-, least, greatest⟩ := h
  have none : s.hai = -1 → s.status.extractLsb' 0 8 = 0xFF#8 := fun e =>
    BitVec.eq_of_toNat_eq (by rw [low, e]; rfl)
  have voice : 0 ≤ s.hai → (s.status.extractLsb' 0 8).toNat = s.hai.toNat := fun nonneg =>
    low.trans (haiField_of_nonneg nonneg)
  refine ⟨?_, voice, none, size, reserved, fun w => ⟨rfl, rfl⟩, State.active_getLsbD bank⟩
  change (s.status.extractLsb' 0 8).toInt = s.hai
  rcases eq_or_ne s.hai (-1) with e | ne
  · rw [none e, e]; rfl
  · have := voice (by omega)
    rw [BitVec.toInt_eq_toNat_of_lt (by omega)]; omega

/-! ## The registers at power-on -/

theorem activeSum_replicate_free (i n : Nat) : activeSum i (List.replicate n Voice.free) = 0 := by
  induction n generalizing i with
  | zero => rfl
  | succ n ih => rw [List.replicate_succ, activeSum, ih]; rfl

/-- Settles O35: no voice is active and HAI is NONE; every other register is 0. -/
theorem resetStateAsStated : Obligations.ResetStateAsStated := by
  refine ⟨rfl, fun n wave hn => ?_⟩
  have status : (State.powerOn n wave).status = BitVec.ofNat 32 (n * 256 + 255) := by
    rw [State.status_eq (show haiField (-1) < 256 by decide), powerOn_nVoices]
    rfl
  have active : (State.powerOn n wave).active = 0#32 :=
    congrArg (BitVec.ofNat 32) (activeSum_replicate_free 0 n)
  have operands : ∀ r, 5 ≤ r → r ≤ 10 → (State.powerOn n wave).regRead r = 0#32 := by
    intro r h1 h2
    interval_cases r <;> rfl
  exact ⟨rfl, rfl, rfl, status, active, operands, rfl, rfl, powerOn_nVoices n wave,
    fun i _ => powerOn_voice n wave i⟩

/-! ## The registers after a write -/

/-- An operand register reads the word written last to it; the others read as before. -/
theorem State.setOperand_operand (s : State) (n : Nat) (w : Word) (m : Nat) :
    (s.setOperand n w).operand m = if n = m ∧ 5 ≤ m ∧ m ≤ 10 then w else s.operand m := by
  by_cases operand : 5 ≤ m ∧ m ≤ 10
  · obtain ⟨low, high⟩ := operand
    interval_cases m <;> simp [State.operand]
  · rw [if_neg (by tauto)]
    unfold State.operand
    split <;> simp at operand ⊢

@[simp] theorem State.setOperand_status (s : State) (n : Nat) (w : Word) : (s.setOperand n w).status = s.status := by
  simp [State.status]

@[simp] theorem State.setOperand_active (s : State) (n : Nat) (w : Word) : (s.setOperand n w).active = s.active := by
  simp [State.active]

/-- No register but the operand register written reads another word. -/
theorem State.setOperand_regRead (s : State) (n : Nat) (w : Word) (m : Nat) :
    (s.setOperand n w).regRead m = if n = m ∧ 5 ≤ m ∧ m ≤ 10 then w else s.regRead m := by
  unfold State.regRead
  split
  · simp
  · simp
  · simp
  · simp
  · simp
  · exact s.setOperand_operand n w m

/-- Settles O40: no command writes CMD, and an operand register is written alone. -/
theorem writtenRegistersReadBack : Obligations.WrittenRegistersReadBack := by
  intro n w s t h
  rcases regWrite_eq_next h with ⟨rfl, -, rfl⟩ | ⟨i, rfl, -, e⟩ | ⟨ne, rfl⟩
  · exact ⟨fun _ => rfl, fun ne => absurd rfl ne⟩
  · exact ⟨fun _ => (exec_sameHostSide e).cmd, fun ne => absurd rfl ne⟩
  · refine ⟨fun reg => ?_, fun _ m hm => ?_⟩
    · rw [State.setOperand_regRead, if_pos ⟨rfl, reg.resolve_left ne⟩]
    · rw [State.setOperand_regRead, if_neg fun e => hm e.1.symm]

end Sys2Proof.Machine
end

section
/-! PROOFS. The strong pool property (spec/10_state.md R32): every command but MIX keeps it, MIX loses it exactly
when the voice at HAI ends, RECLAIM of HAI restores it. -/

namespace Sys2Proof.Machine

/-- HAI is NONE or the index of an active voice: what the strong property adds to the weak invariant. -/
def State.HaiActive (s : State) : Prop :=
  s.hai = -1 ∨ (0 ≤ s.hai ∧ s.hai < s.nVoices ∧ (s.voice s.hai.toNat).isDone = false)

theorem State.strongPool_iff {s : State} : s.StrongPool ↔ s.WeakPool ∧ s.HaiActive := Iff.rfl

theorem State.haiActive_none {s : State} (h : s.hai = -1) : s.HaiActive := .inl h

theorem State.haiActive_index {s : State} {m : Nat} (h : s.hai = m) :
    s.HaiActive ↔ m < s.nVoices ∧ (s.voice m).isDone = false := by
  simp [State.HaiActive, h, show (m : Int) ≠ -1 by omega]

/-- In range, HAI is NONE or the index of a voice (R29). -/
theorem State.WellSized.hai_cases {s : State} (h : s.WellSized) :
    s.hai = -1 ∨ ∃ m : Nat, s.hai = m ∧ m < s.nVoices := by
  obtain ⟨-, low, high⟩ := h
  rcases eq_or_ne s.hai (-1) with none | voice
  · exact .inl none
  · exact .inr ⟨s.hai.toNat, by omega, by omega⟩

theorem State.weakPool_none {s : State} (h : s.hai = -1) :
    s.WeakPool ↔ ∀ i, i < s.nVoices → (s.voice i).envelopeState = .done := by
  simp only [State.WeakPool, Voice.isDone_iff, h]
  exact ⟨fun pool i => pool i (by omega), fun all i _ => all i⟩

theorem State.weakPool_index {s : State} {m : Nat} (h : s.hai = m) :
    s.WeakPool ↔ ∀ i, m < i → i < s.nVoices → (s.voice i).envelopeState = .done := by
  simp only [State.WeakPool, Voice.isDone_iff, h, Nat.cast_lt]

/-- The strong property says that HAI is the greatest index of an active voice, or NONE (R32). -/
theorem State.WellSized.strongPool_iff {s : State} (h : s.WellSized) :
    s.StrongPool ↔
      (s.hai = -1 ∧ ∀ i, i < s.nVoices → (s.voice i).envelopeState = .done) ∨
      ∃ m : Nat, s.hai = m ∧ m < s.nVoices ∧ (s.voice m).envelopeState ≠ .done ∧
        ∀ i, m < i → i < s.nVoices → (s.voice i).envelopeState = .done := by
  rw [State.strongPool_iff]
  constructor
  · rintro ⟨pool, active⟩
    rcases h.hai_cases with none | ⟨m, hm, inBank⟩
    · exact .inl ⟨none, (State.weakPool_none none).1 pool⟩
    · have alive := ((State.haiActive_index hm).1 active).2
      exact .inr ⟨m, hm, inBank, (Voice.not_isDone_iff _).1 alive, (State.weakPool_index hm).1 pool⟩
  · rintro (⟨none, all⟩ | ⟨m, hm, inBank, alive, above⟩)
    · exact ⟨(State.weakPool_none none).2 all, State.haiActive_none none⟩
    · exact ⟨(State.weakPool_index hm).2 above,
        (State.haiActive_index hm).2 ⟨inBank, (Voice.not_isDone_iff _).2 alive⟩⟩

theorem powerOn_strongPool (n : Nat) (wave : Vector Entry 256) : (State.powerOn n wave).StrongPool :=
  ⟨powerOn_weakPool n wave, State.haiActive_none rfl⟩

/-! ## The commands but MIX -/

/-- Putting an active voice in the bank and raising HAI to it: HAI becomes that voice's index or stays. -/
theorem State.StrongPool.activate {s : State} (h : s.StrongPool) {i : Nat} (hi : i < s.nVoices) {v : Voice}
    (hv : v.isDone = false) : ((s.setVoice i v).raiseHai i).StrongPool := by
  obtain ⟨pool, active⟩ := h
  refine ⟨pool.activate i v, ?_⟩
  by_cases raised : s.hai ≤ i
  · have hai : ((s.setVoice i v).raiseHai i).hai = i := max_eq_right raised
    refine (State.haiActive_index hai).2 ⟨by simpa using hi, ?_⟩
    rw [State.raiseHai_voice, State.setVoice_voice_self v hi]
    exact hv
  · have hm : s.hai = s.hai.toNat := by omega
    have hai : ((s.setVoice i v).raiseHai i).hai = s.hai.toNat := by
      rw [State.raiseHai_hai, State.setVoice_hai]; omega
    refine (State.haiActive_index hai).2 ?_
    rw [State.raiseHai_nVoices, State.setVoice_nVoices, State.raiseHai_voice,
      State.setVoice_voice_ne v (by omega)]
    exact (State.haiActive_index hm).1 active

/-- RECLAIM of HAI brings it to an active voice, or to NONE, from any state with the weak invariant (R125). -/
theorem State.WeakPool.reclaim_strong {s : State} (h : s.WeakPool) {i : Nat} (hi : (i : Int) = s.hai)
    (inBank : i < s.nVoices) : (s.setHai (reclaimedHai s i)).StrongPool := by
  refine ⟨h.reclaim i, ?_⟩
  rw [reclaimedHai, if_pos hi]
  obtain ⟨low, below, -, active⟩ := s.scanDown_spec (i + 1)
  rcases eq_or_ne (s.scanDown (i + 1)) (-1) with none | found
  · exact .inl none
  · have nonneg : 0 ≤ s.scanDown (i + 1) := by omega
    exact .inr ⟨nonneg, by rw [State.setHai_hai, State.setHai_nVoices]; omega, active nonneg⟩

theorem State.StrongPool.reclaim {s : State} (h : s.StrongPool) {i : Nat} (inBank : i < s.nVoices) :
    (s.setHai (reclaimedHai s i)).StrongPool := by
  by_cases hi : (i : Int) = s.hai
  · exact h.1.reclaim_strong hi inBank
  · rw [reclaimedHai, if_neg hi]
    exact h

theorem exec_keeps_strongPool {i : Instr} {s t : State} (notMix : i ≠ .mix) (h : s.StrongPool)
    (e : exec i s = .next t) : t.StrongPool := by
  rcases exec_eq_next e with ⟨k, -, free, rfl⟩ | ⟨-, -, rfl⟩ | ⟨idx, -, hi, rfl⟩ | ⟨idx, -, hi, rfl⟩ | ⟨mix, -⟩ |
    ⟨idx, -, -, rfl⟩ | ⟨idx, -, -, rfl⟩
  · exact h.activate (State.firstFree_eq_some.1 free).1 (Voice.reset_isDone s.note)
  · exact h
  · exact h.activate hi (s.voice idx.toNat).release_isDone
  · exact h.reclaim hi
  · exact absurd mix notMix
  · exact h
  · exact h

theorem exec_reclaim_hai_strongPool {idx : BitVec 8} {s : State} (sized : s.WellSized) (h : s.WeakPool)
    (hi : (idx.toNat : Int) = s.hai) : ∃ t, exec (.reclaim idx) s = .next t ∧ t.StrongPool := by
  obtain ⟨-, -, high⟩ := sized
  have inBank : idx.toNat < s.nVoices := by omega
  exact ⟨_, execReclaim_of_lt inBank, h.reclaim_strong hi inBank⟩

/-! ## MIX -/

/-- MIX leaves HAI alone, so it loses the property exactly when it ends the voice there. -/
theorem exec_mix_loses_strongPool_iff {s t : State} (sized : s.WellSized) (h : s.StrongPool)
    (e : exec .mix s = .next t) :
    ¬ t.StrongPool ↔
      ∃ m : Nat, s.hai = m ∧ (s.voice m).envelopeState ≠ .done ∧ (t.voice m).envelopeState = .done := by
  have size : t.nVoices = s.nVoices := exec_nVoices e
  obtain ⟨hai, pool⟩ : t.hai = s.hai ∧ t.WeakPool := by
    cases e
    exact ⟨rfl, h.1.advanceVisited⟩
  have lost : ¬ t.StrongPool ↔ ¬ t.HaiActive := not_congr (and_iff_right pool)
  rw [lost]
  rcases sized.hai_cases with none | ⟨m, hm, inBank⟩
  · have kept : t.HaiActive := State.haiActive_none (hai.trans none)
    have noVoice : ∀ m : Nat, s.hai ≠ m := by omega
    simp [kept, noVoice]
  · have alive : (s.voice m).envelopeState ≠ .done :=
      (Voice.not_isDone_iff _).1 ((State.haiActive_index hm).1 h.2).2
    simp [State.haiActive_index (hai.trans hm), hm, size, inBank, alive]

/-- One voice, RELEASED at level 0, with HAI at it: its note ends at the next MIX. -/
def endingVoice : State :=
  { State.powerOn 1 defaultWave with hai := 0, voices := [{ Voice.free with envelopeState := .released }] }

theorem endingVoice_inv : endingVoice.Inv where
  sized := ⟨by decide, by decide, by decide⟩
  pool := (State.weakPool_index (m := 0) rfl).2 fun i above (inBank : i < 1) => by omega
  silent := by unfold State.DoneSilent; decide
  response := powerOn_responseLegal 1 defaultWave

theorem endingVoice_strongPool : endingVoice.StrongPool := ⟨endingVoice_inv.pool, .inr (by decide)⟩

theorem endingVoice_loses_strongPool :
    ∃ t, exec .mix endingVoice = .next t ∧ ¬ t.StrongPool :=
  ⟨_, rfl, (exec_mix_loses_strongPool_iff endingVoice_inv.sized endingVoice_strongPool rfl).2
    ⟨0, rfl, by decide, by decide⟩⟩

/-- Settles O50, clause by clause. -/
theorem strongPoolLostByMixAndRestoredByReclaim : Obligations.StrongPoolLostByMixAndRestoredByReclaim := by
  obtain ⟨t, mix, lost⟩ := endingVoice_loses_strongPool
  exact ⟨fun _ sized => sized.strongPool_iff, powerOn_strongPool,
    fun _ _ _ notMix _ strong e => exec_keeps_strongPool notMix strong e,
    fun _ _ sized strong e => exec_mix_loses_strongPool_iff sized strong e,
    ⟨endingVoice, t, endingVoice_inv, endingVoice_strongPool, mix, lost⟩,
    fun _ _ sized weak hi => exec_reclaim_hai_strongPool sized weak hi⟩

end Sys2Proof.Machine
end

section
/-! PROOFS. The default waveform table (spec/10_state.md R33): its entries as integers, and its two symmetries. -/

namespace Sys2Proof.Machine

/-- The first half period of the default table. -/
def waveHalf : List Int := waveQuarter1 ++ waveQuarter2

/-- The second half period is the first one negated. -/
theorem waveEntries_eq : waveEntries = waveHalf ++ waveHalf.map Neg.neg := by
  have third : waveQuarter3 = waveQuarter1.map Neg.neg := by decide
  have fourth : waveQuarter4 = waveQuarter2.map Neg.neg := by decide
  simp [waveEntries, waveHalf, third, fourth]

theorem waveHalf_inRange (x : Int) (h : x ∈ waveHalf) : 0 ≤ x ∧ x ≤ 8192 := by
  have first : ∀ y ∈ waveQuarter1, 0 ≤ y ∧ y ≤ 8192 := by decide
  have second : ∀ y ∈ waveQuarter2, 0 ≤ y ∧ y ≤ 8192 := by decide
  exact (List.mem_append.1 h).elim (first x) (second x)

theorem waveEntries_inRange (x : Int) (h : x ∈ waveEntries) : -8192 ≤ x ∧ x ≤ 8192 := by
  rw [waveEntries_eq, List.mem_append, List.mem_map] at h
  rcases h with half | ⟨y, half, rfl⟩
  · have := waveHalf_inRange x half; omega
  · have := waveHalf_inRange y half; omega

/-- An entry of the default table, read as a signed number, is the integer that R33 lists: all 256 fit in 16 bits. -/
theorem defaultWave_toInt {k : Nat} (h : k < 256) :
    (waveEntry defaultWave (BitVec.ofNat 8 k)).toInt = waveEntries.getD k 0 := by
  have inList : k < waveEntries.length := by rwa [waveEntries_length]
  have index : (BitVec.ofNat 8 k).toNat = k := by simpa using h
  have word : waveEntry defaultWave (BitVec.ofNat 8 k) = BitVec.ofInt 16 waveEntries[k] := by
    simp [waveEntry, defaultWave, index]
  have fits := waveEntries_inRange _ (List.getElem_mem inList)
  rw [word, BitVec.toInt_ofInt, Int.bmod_eq_of_le (by omega) (by omega), List.getD_eq_getElem _ _ inList]

theorem waveEntries_antisymmetric {k : Nat} (h : k < 128) :
    waveEntries.getD (128 + k) 0 = -waveEntries.getD k 0 := by
  have half : waveHalf.length = 128 := by simp [waveHalf, waveQuarter1, waveQuarter2]
  rw [waveEntries_eq, List.getD_append_right _ _ _ _ (by omega), List.getD_append _ _ _ _ (by omega), half,
    Nat.add_sub_cancel_left, List.getD_eq_getElem _ _ (by simpa [half] using h),
    List.getD_eq_getElem _ _ (by omega), List.getElem_map]

theorem waveEntries_symmetric :
    ∀ k : Fin 64, 1 ≤ k.val → waveEntries.getD (128 - k.val) 0 = waveEntries.getD k.val 0 := by decide

/-- Settles O34: the second half of the listed entries negates the first, which is symmetric about entry 64. -/
theorem defaultTableEntriesAndSymmetries : Obligations.DefaultTableEntriesAndSymmetries := by
  refine ⟨?_, fun k hk => ?_, fun k => ?_, ?_⟩
  · rw [List.map_congr_left fun k hk => defaultWave_toInt (Nat.lt_trans (List.mem_range.1 hk) (by decide))]
    decide
  · change (waveEntry _ _).toInt = (waveEntry _ _).toInt
    rw [defaultWave_toInt (by omega), defaultWave_toInt (by omega), waveEntries_symmetric k hk]
  · change (waveEntry _ _).toInt = -(waveEntry _ _).toInt
    rw [defaultWave_toInt (by omega), defaultWave_toInt (by omega), waveEntries_antisymmetric k.isLt]
  · change (waveEntry _ _).toInt = 0
    rw [defaultWave_toInt (by decide)]
    decide

end Sys2Proof.Machine
end

section
/-! PROOFS. The accesses of the register port (spec/20_memory.md R53 to R56, R65, R66): what each register reads, what
a write of each does, and the same through a byte-addressed bus. -/

namespace Sys2Proof.Machine

/-! ## The two primitives -/

/-- ACTIVE as R65 writes it: a sum over the voice indices. -/
theorem State.active_eq_sum (s : State) :
    s.active = BitVec.ofNat 32 (((List.range s.nVoices).map fun i =>
      if (s.voice i).envelopeState ≠ .done then 2 ^ i else 0).sum) := by
  rw [State.active, activeSum_eq]
  simp only [Nat.zero_add]
  rfl

/-- A reserved number reads 0 (R56). -/
theorem State.regRead_reserved (s : State) {n : Nat} (h : 11 ≤ n) : s.regRead n = 0#32 := by
  obtain ⟨k, rfl⟩ := Nat.exists_eq_add_of_le' h
  rfl

/-- Settles O37: ACTIVE is `State.active_eq_sum`; each other register reads by definition. -/
theorem regReadValues : Obligations.RegReadValues := fun s =>
  ⟨rfl, rfl, rfl, rfl, s.active_eq_sum, rfl, rfl, rfl, rfl, rfl, rfl, fun _ => s.regRead_reserved⟩

/-- A number that is no operand register takes no word (R66). -/
theorem State.setOperand_ignored (s : State) {n : Nat} (h : n ≤ 4 ∨ 11 ≤ n) (w : Word) : s.setOperand n w = s := by
  rcases h with view | reserved
  · interval_cases n <;> rfl
  · obtain ⟨k, rfl⟩ := Nat.exists_eq_add_of_le' reserved
    rfl

/-- Settles O39: the writes of 1 to 4 and from 11 are ignored; every other one is by definition. -/
theorem regWriteEffects : Obligations.RegWriteEffects := by
  intro w s
  have ignored : ∀ n, n ≠ 0 → n ≤ 4 ∨ 11 ≤ n → regWrite n w s = .next s := fun n pos h => by
    rw [regWrite_pos pos, s.setOperand_ignored h]
  exact ⟨rfl, fun n least most => ignored n (by omega) (.inl most), rfl, rfl, rfl, rfl, rfl, rfl,
    fun n reserved => ignored n (by omega) (.inr reserved)⟩

/-! ## Reads have no side effect -/

@[simp] theorem State.setInputs_regRead (s : State) (es : List HostEvent) (n : Nat) :
    (s.setInputs es).regRead n = s.regRead n := rfl

@[simp] theorem State.observe_regRead (s : State) (o : Observation) (n : Nat) :
    (s.observe o).regRead n = s.regRead n := rfl

/-- A read observes the word of the register and changes nothing else (R65). -/
theorem step_read {n : Nat} {rest : List HostEvent} {s : State} (h : s.inputs = .read n :: rest) :
    step s = .next ((s.setInputs rest).observe (.value (s.regRead n))) := by
  rw [step_event h, hostAccess, State.setInputs_regRead]

/-- Settles O41: what the first read changes, the accesses to come and the observations, no register shows. -/
theorem readsAreIdempotent : Obligations.ReadsAreIdempotent := by
  intro s n rest h
  refine ⟨_, _, step_read h, step_read rfl, rfl, ?_⟩
  rw [State.observe_regRead, State.setInputs_regRead]
  rfl

/-! ## The byte-addressed form -/

theorem wholeRegister_iff (offset width : Nat) : wholeRegister offset width = true ↔ width = 4 ∧ offset % 4 = 0 := by
  rw [wholeRegister, Bool.and_eq_true, decide_eq_true_eq, decide_eq_true_eq]

@[simp] theorem wholeRegister_mul_four (n : Nat) : wholeRegister (4 * n) 4 = true :=
  (wholeRegister_iff _ _).2 ⟨rfl, Nat.mul_mod_right 4 n⟩

theorem wholeRegister_eq_false {offset width : Nat} (h : width ≠ 4 ∨ offset % 4 ≠ 0) :
    wholeRegister offset width = false := by
  rw [← Bool.not_eq_true, wholeRegister_iff]
  tauto

/-- The bytes of a word, put together again, are the word (R53). -/
@[simp] theorem bytesWord_wordBytes (w : Word) : bytesWord (wordBytes w) = w := by
  have high : w.extractLsb' 24 8 ++ w.extractLsb' 16 8 = w.extractLsb' 16 16 :=
    BitVec.extractLsb'_append_extractLsb'_eq_extractLsb' rfl
  have upper : w.extractLsb' 16 16 ++ w.extractLsb' 8 8 = w.extractLsb' 8 24 :=
    BitVec.extractLsb'_append_extractLsb'_eq_extractLsb' rfl
  have whole : w.extractLsb' 8 24 ++ w.extractLsb' 0 8 = w.extractLsb' 0 32 :=
    BitVec.extractLsb'_append_extractLsb'_eq_extractLsb' rfl
  rw [wordBytes, bytesWord, high, upper, whole, BitVec.extractLsb'_eq_self]

/-- A bus read at `4 * n` observes the bytes of register `n`. -/
theorem hostAccess_busRead (n : Nat) (s : State) :
    hostAccess (.busRead (4 * n) 4) s = .next (s.observe (.bytes (wordBytes (s.regRead n)))) := by
  rw [hostAccess, if_pos (wholeRegister_mul_four n), Nat.mul_div_cancel_left n (by decide)]

/-- A bus write of a word's bytes at `4 * n` is a RegWrite of the word. -/
theorem hostAccess_busWrite (n : Nat) (w : Word) (s : State) :
    hostAccess (.busWrite (4 * n) (wordBytes w)) s = hostAccess (.write n w) s := by
  have whole : wholeRegister (4 * n) (wordBytes w).length = true := wholeRegister_mul_four n
  simp only [hostAccess, whole, if_true, bytesWord_wordBytes, Nat.mul_div_cancel_left n (by decide : 0 < 4)]

/-- Settles O42: register `n` is at offset `4 * n` in the bytes of `wordBytes`, and no other access is one to a whole
register (`wholeRegister_eq_false`). -/
theorem busAccessesAreWholeRegisters : Obligations.BusAccessesAreWholeRegisters := by
  refine fun s => ⟨fun n => hostAccess_busRead n s, fun n w => hostAccess_busWrite n w s, ?_, ?_⟩
  · intro offset width h
    rw [hostAccess, wholeRegister_eq_false h]
    rfl
  · intro offset bytes h
    rw [hostAccess, wholeRegister_eq_false h]
    rfl

end Sys2Proof.Machine
end

section
/-! PROOFS. The command word (spec/30_encoding.md R70 to R74): which word is which command, by its fields, by the
opcode map, and by the checks that a write of CMD makes. -/

namespace Sys2Proof

/-! ## A word decodes to a command exactly when it is the command's word -/

/-- The index field that a command's word carries: its index, or 0 (R71). -/
def Instr.indexField (i : Instr) : BitVec 8 := i.index?.getD 0#8

theorem encode_eq_commandWord (i : Instr) : encode i = commandWord (opcode i) i.indexField := by
  cases i <;> rfl

/-- The fields of a word that decodes: each branch of the decoder fixes them. -/
theorem fields_of_decode {w : Word} {i : Instr} (h : decode w = .instr i) :
    rsvField w = 0#16 ∧ opField w = opcode i ∧ idxField w = i.indexField := by
  unfold decode at h
  split_ifs at h with rsv alloc idx rel reclaim mix idx isdone
  all_goals cases h
  · exact ⟨not_not.1 rsv, alloc, idx⟩
  · exact ⟨not_not.1 rsv, rel, rfl⟩
  · exact ⟨not_not.1 rsv, reclaim, rfl⟩
  · exact ⟨not_not.1 rsv, mix, idx⟩
  · exact ⟨not_not.1 rsv, isdone, rfl⟩

theorem decode_encode (i : Instr) : decode (encode i) = .instr i := by
  rw [encode_eq_commandWord]
  cases i <;> simp [decode, opcode, Instr.indexField, Instr.index?]

theorem encode_of_decode {w : Word} {i : Instr} (h : decode w = .instr i) : encode i = w := by
  obtain ⟨rsv, op, idx⟩ := fields_of_decode h
  rw [encode_eq_commandWord, ← op, ← idx, commandWord_of_fields rsv]

theorem decode_eq_instr_iff {w : Word} {i : Instr} : decode w = .instr i ↔ encode i = w :=
  ⟨encode_of_decode, fun h => h ▸ decode_encode i⟩

/-- Settles O1: the decoder reads back the fields of which the word was assembled. -/
theorem decodeOfEncodeIsTheCommand : Obligations.DecodeOfEncodeIsTheCommand := decode_encode

/-- Settles O2: the three fields determine the word. -/
theorem decodedWordIsTheEncoding : Obligations.DecodedWordIsTheEncoding := fun _ _ => encode_of_decode

/-- Settles O3, word by word. -/
theorem specWordsDecode : Obligations.SpecWordsDecode :=
  ⟨decode_alloc_word, decode_rel_word, decode_reclaim_word, decode_mix_word, decode_encode (.isdone 0#8),
    by decide, by decide⟩

/-! ## The opcode map as match and mask (R72) -/

/-- A word is a command word with some index exactly when the mask of an indexed row leaves the opcode alone. -/
theorem exists_commandWord_iff (op : BitVec 8) (w : Word) :
    (∃ idx, commandWord op idx = w) ↔ w &&& 0xFFFF00FF#32 = commandWord op 0#8 := by
  constructor
  · rintro ⟨idx, rfl⟩
    exact commandWord_and_indexMask op idx
  · intro h
    have opKept : opField (w &&& 0xFFFF00FF#32) = opField w := by
      rw [opField, BitVec.extractLsb'_and]; exact BitVec.and_allOnes
    have rsvKept : rsvField (w &&& 0xFFFF00FF#32) = rsvField w := by
      rw [rsvField, BitVec.extractLsb'_and]; exact BitVec.and_allOnes
    rw [h] at opKept rsvKept
    refine ⟨idxField w, ?_⟩
    rw [← opField_commandWord op 0#8, opKept, commandWord_of_fields (by rw [← rsvKept, rsvField_commandWord])]

/-- The row of a command without an index: the mask keeps the whole word. -/
theorem decode_iff_fullMask (i : Instr) (w : Word) : decode w = .instr i ↔ w &&& 0xFFFFFFFF#32 = encode i := by
  have full : w &&& 0xFFFFFFFF#32 = w := BitVec.and_allOnes
  rw [full, decode_eq_instr_iff, eq_comm]

/-- The row of an indexed command `c`. -/
theorem exists_decode_iff_indexMask {op : BitVec 8} {c : BitVec 8 → Instr}
    (h : ∀ idx, encode (c idx) = commandWord op idx) (w : Word) :
    (∃ idx, decode w = .instr (c idx)) ↔ w &&& 0xFFFF00FF#32 = commandWord op 0#8 := by
  simp only [decode_eq_instr_iff, h, exists_commandWord_iff]

/-- Decoding is total: a word is illegal exactly when it is none of the five commands. -/
theorem exists_illegal_iff (w : Word) :
    (∃ why, decode w = .illegal why) ↔
      decode w ≠ .instr .alloc ∧ (¬ ∃ idx, decode w = .instr (.rel idx)) ∧
      (¬ ∃ idx, decode w = .instr (.reclaim idx)) ∧ decode w ≠ .instr .mix ∧
      ¬ ∃ idx, decode w = .instr (.isdone idx) := by
  cases decode w with
  | illegal why => simp
  | instr i => cases i <;> simp

/-- Settles O4: a row each, and illegal is the rest. -/
theorem opcodeMapIsMatchAndMask : Obligations.OpcodeMapIsMatchAndMask := by
  intro w
  have alloc := decode_iff_fullMask .alloc w
  have rel := exists_decode_iff_indexMask (c := .rel) (fun _ => rfl) w
  have reclaim := exists_decode_iff_indexMask (c := .reclaim) (fun _ => rfl) w
  have mix := decode_iff_fullMask .mix w
  have isdone := exists_decode_iff_indexMask (c := .isdone) (fun _ => rfl) w
  refine ⟨alloc, rel, reclaim, mix, isdone, ?_⟩
  rw [exists_illegal_iff, rel, reclaim, isdone]
  exact and_congr (not_congr alloc) (and_congr .rfl (and_congr .rfl (and_congr (not_congr mix) .rfl)))

/-! ## The fields as numbers -/

/-- A word decodes to a command exactly when it has no reserved bit set, the command's opcode and its index field. -/
theorem decode_eq_instr_iff_numbers {w : Word} {i : Instr} :
    decode w = .instr i ↔
      w.toNat / 65536 = 0 ∧ w.toNat % 256 = (opcode i).toNat ∧ w.toNat / 256 % 256 = i.indexField.toNat := by
  constructor
  · intro h
    obtain ⟨rsv, op, idx⟩ := fields_of_decode h
    rw [← rsvField_toNat, ← opField_toNat, ← idxField_toNat, rsv, op, idx]
    exact ⟨rfl, rfl, rfl⟩
  · rintro ⟨rsv, op, idx⟩
    rw [decode_eq_instr_iff, encode_eq_commandWord, BitVec.toNat_eq, commandWord_toNat]
    omega

theorem opcode_range (i : Instr) : 1 ≤ (opcode i).toNat ∧ (opcode i).toNat ≤ 5 := by
  cases i <;> simp [opcode]

/-- ALLOC and MIX carry no index. -/
theorem indexField_of_opcode {i : Instr} (h : (opcode i).toNat = 1 ∨ (opcode i).toNat = 4) : i.indexField = 0#8 := by
  cases i with
  | alloc => rfl
  | mix => rfl
  | rel idx => simp [opcode] at h
  | reclaim idx => simp [opcode] at h
  | isdone idx => simp [opcode] at h

/-- R74, field by field: what makes a word illegal. -/
def IllegalNumbers (w : Word) : Prop :=
  w.toNat / 65536 ≠ 0 ∨ w.toNat % 256 = 0 ∨ 6 ≤ w.toNat % 256 ∨
    ((w.toNat % 256 = 1 ∨ w.toNat % 256 = 4) ∧ w.toNat / 256 % 256 ≠ 0)

theorem not_illegalNumbers_of_decode {w : Word} {i : Instr} (h : decode w = .instr i) : ¬ IllegalNumbers w := by
  obtain ⟨rsv, op, idx⟩ := decode_eq_instr_iff_numbers.1 h
  obtain ⟨least, most⟩ := opcode_range i
  rintro (rsvSet | opZero | opHigh | ⟨noIndex, idxSet⟩)
  · exact rsvSet rsv
  · omega
  · omega
  · rw [op] at noIndex
    rw [idx, indexField_of_opcode noIndex] at idxSet
    exact idxSet rfl

theorem decode_of_not_illegalNumbers {w : Word} (h : ¬ IllegalNumbers w) : ∃ i, decode w = .instr i := by
  unfold IllegalNumbers at h
  have command : ∀ i, w.toNat % 256 = (opcode i).toNat → w.toNat / 256 % 256 = i.indexField.toNat →
      ∃ i, decode w = .instr i := fun i op idx => ⟨i, decode_eq_instr_iff_numbers.2 ⟨by omega, op, idx⟩⟩
  have field := (idxField_toNat w).symm
  obtain op | op | op | op | op : w.toNat % 256 = 1 ∨ w.toNat % 256 = 2 ∨ w.toNat % 256 = 3 ∨
      w.toNat % 256 = 4 ∨ w.toNat % 256 = 5 := by omega
  · exact command .alloc op (show _ = 0 by omega)
  · exact command (.rel (idxField w)) op field
  · exact command (.reclaim (idxField w)) op field
  · exact command .mix op (show _ = 0 by omega)
  · exact command (.isdone (idxField w)) op field

theorem decode_of_illegalNumbers {w : Word} (h : IllegalNumbers w) : ∃ why, decode w = .illegal why := by
  cases d : decode w with
  | illegal why => exact ⟨why, rfl⟩
  | instr i => exact absurd h (not_illegalNumbers_of_decode d)

end Sys2Proof

namespace Sys2Proof.Machine

/-! ## A write of CMD -/

theorem regWrite_illegalNumbers {w : Word} (h : IllegalNumbers w) (s : State) :
    regWrite 0 w s = .next { s with cmd := w, rcode := 3#32, result := 0xFFFFFFFF#32 } := by
  obtain ⟨why, d⟩ := decode_of_illegalNumbers h
  rw [regWrite_zero, execute_illegal d]
  rfl

theorem regWrite_instr {w : Word} {i : Instr} (d : decode w = .instr i) (s : State) :
    regWrite 0 w s = exec i (s.setCmd w) := by
  rw [regWrite_zero, execute_instr d]

/-- Settles O6: the numbers of R74 say exactly which words decode to no command. -/
theorem illegalWordsAnswerErrOpcode : Obligations.IllegalWordsAnswerErrOpcode := fun _ =>
  ⟨regWrite_illegalNumbers, decode_of_not_illegalNumbers⟩

/-- A command whose index names no voice (R73). -/
theorem exec_index_ge {i : Instr} {idx : BitVec 8} {s : State} (h : i.index? = some idx)
    (out : s.nVoices ≤ idx.toNat) : exec i s = .next (s.fail .errIndex) := by
  cases i with
  | alloc => cases h
  | rel => cases h; rw [exec, execRel, withIndex_of_ge _ out]
  | reclaim => cases h; rw [exec, execReclaim, withIndex_of_ge _ out]
  | mix => cases h
  | isdone => cases h; rw [exec, execIsdone, withIndex_of_ge _ out]

/-- A write of CMD with a legal word whose index is out of range. -/
theorem regWrite_index_ge {w : Word} {i : Instr} {idx : BitVec 8} {s : State} (d : decode w = .instr i)
    (h : i.index? = some idx) (out : s.nVoices ≤ idx.toNat) :
    regWrite 0 w s = .next { s with cmd := w, rcode := 2#32, result := 0xFFFFFFFF#32 } := by
  have outSet : (s.setCmd w).nVoices ≤ idx.toNat := out
  rw [regWrite_instr d, exec_index_ge h outSet]
  rfl

/-- Settles O5, one case per line of R70. -/
theorem executeChecksInOrder : Obligations.ExecuteChecksInOrder := by
  intro w s op idx rsv s' badOpcode badIndex
  have field : idx = (BitVec.ofNat 8 idx).toNat := by simp [idx]
  by_cases rsvSet : rsv ≠ 0
  · rw [if_pos rsvSet]
    exact regWrite_illegalNumbers (.inl rsvSet) s
  rw [if_neg rsvSet]
  have command : ∀ i : Instr, op = (opcode i).toNat → idx = i.indexField.toNat → decode w = .instr i :=
    fun _ opIs idxIs => decode_eq_instr_iff_numbers.2 ⟨not_not.1 rsvSet, opIs, idxIs⟩
  by_cases opBad : ¬ (op = 1 ∨ op = 2 ∨ op = 3 ∨ op = 4 ∨ op = 5)
  · rw [if_pos opBad]
    exact regWrite_illegalNumbers (by unfold IllegalNumbers; omega) s
  rw [if_neg opBad]
  by_cases idxSet : (op = 1 ∨ op = 4) ∧ idx ≠ 0
  · rw [if_pos idxSet]
    exact regWrite_illegalNumbers (.inr (.inr (.inr idxSet))) s
  rw [if_neg idxSet]
  have idxZero : op = 1 ∨ op = 4 → idx = 0 := fun h => not_not.1 fun h' => idxSet ⟨h, h'⟩
  by_cases out : (op = 2 ∨ op = 3 ∨ op = 5) ∧ s.nVoices ≤ idx
  · rw [if_pos out]
    obtain ⟨op2 | op3 | op5, out⟩ := out
    · exact regWrite_index_ge (command (.rel (.ofNat 8 idx)) op2 field) rfl (field ▸ out)
    · exact regWrite_index_ge (command (.reclaim (.ofNat 8 idx)) op3 field) rfl (field ▸ out)
    · exact regWrite_index_ge (command (.isdone (.ofNat 8 idx)) op5 field) rfl (field ▸ out)
  rw [if_neg out]
  split_ifs with op1 op2 op3 op4
  · exact regWrite_instr (command .alloc op1 (idxZero (.inl op1))) s
  · exact regWrite_instr (command (.rel (.ofNat 8 idx)) op2 field) s
  · exact regWrite_instr (command (.reclaim (.ofNat 8 idx)) op3 field) s
  · exact regWrite_instr (command .mix op4 (idxZero (.inr op4))) s
  · have op5 : op = 5 := by omega
    exact regWrite_instr (command (.isdone (.ofNat 8 idx)) op5 field) s

end Sys2Proof.Machine
end

section
/-! PROOFS. The micro-operations of a voice (spec/40_voice.md R91 to R102, R106, R107): reset, the five arms of the
envelope step, the sample and its range, silence at the end of a note, and the phase. -/

namespace Sys2Proof.Machine

/-! ## Reset and the arms of the envelope step -/

/-- Settles O21: the nine fields are those of the definition. -/
theorem voiceResetWritesAllFields : Obligations.VoiceResetWritesAllFields := fun _ => rfl

/-- Settles O22: with a carry or without. -/
theorem envelopeStepInRising : Obligations.EnvelopeStepInRising := by
  intro v h
  split
  · next carry => exact Voice.envStep_rising_carry h carry
  · next noCarry =>
    have sum : BitVec.ofNat 32 (v.level.toNat + v.attackRate.toNat) = v.level + v.attackRate := by
      simp [BitVec.ofNat_add]
    rw [sum, Voice.envStep_rising h (by omega)]

theorem afterDecay_eq (target : Word) : afterDecay target = if target = 0#32 then .done else .sustain := by
  simp [afterDecay, Config.sustainZero, BitVec.toNat_eq]

theorem ofNat_sub_toNat {x y : Word} (h : y.toNat ≤ x.toNat) : BitVec.ofNat 32 (x.toNat - y.toNat) = x - y := by
  apply BitVec.eq_of_toNat_eq
  rw [BitVec.toNat_ofNat, BitVec.toNat_sub_of_le h, Nat.mod_eq_of_lt (by omega)]

/-- Settles O23: the sustain level reached or passed, or not yet. -/
theorem envelopeStepInFalling : Obligations.EnvelopeStepInFalling := by
  intro v h
  split
  · next reached => rw [Voice.envStep_falling_reached h reached, afterDecay_eq]
  · next above => rw [ofNat_sub_toNat (by omega), Voice.envStep_falling h (by omega) (by omega)]

/-- Settles O24: the duration elapsed, or not yet. -/
theorem envelopeStepInSustain : Obligations.EnvelopeStepInSustain := by
  intro v h
  split
  · next elapsed => exact Voice.envStep_sustain_elapsed h elapsed
  · next left => exact Voice.envStep_sustain h (by omega)

/-- Settles O25: zero reached or passed, or not yet. -/
theorem envelopeStepInReleased : Obligations.EnvelopeStepInReleased := by
  intro v h
  split
  · next reached => exact Voice.envStep_released_reached h reached
  · next above => rw [ofNat_sub_toNat (by omega), Voice.envStep_released h (by omega)]

/-! ## What takes a voice out of DONE (R97) -/

/-- MIX leaves a DONE voice as it is, whether it visits it or not. -/
theorem State.advanceVisited_voice_of_done {s : State} {j : Nat} (h : (s.voice j).envelopeState = .done) :
    s.advanceVisited.voice j = s.voice j := by
  rw [State.advanceVisited_voice, Voice.advance_of_done h, ite_self]

/-- Settles O26: ALLOC changes the voice its scan answers, REL its operand, and no other command a DONE voice. -/
theorem envelopeStepInDone : Obligations.EnvelopeStepInDone := by
  refine ⟨fun _ h => Voice.envStep_done h, fun i s t j e before after => ?_⟩
  rcases exec_eq_next e with ⟨k, rfl, free, rfl⟩ | ⟨-, -, rfl⟩ | ⟨idx, rfl, inBank, rfl⟩ | ⟨idx, -, -, rfl⟩ |
    ⟨-, rfl⟩ | ⟨idx, -, -, rfl⟩ | ⟨idx, -, -, rfl⟩
  · rw [State.allocate_voice] at after ⊢
    split at after
    · next taken => obtain ⟨rfl, inBank⟩ := taken; exact .inl ⟨rfl, free, if_pos ⟨rfl, inBank⟩⟩
    · exact absurd before after
  · exact absurd before after
  · rw [State.respond_voice, State.raiseHai_voice, State.setVoice_voice] at after ⊢
    split at after
    · next taken => obtain ⟨rfl, -⟩ := taken; exact .inr ⟨idx, rfl, rfl, if_pos ⟨rfl, inBank⟩⟩
    · exact absurd before after
  · exact absurd before after
  · rw [State.respond_voice, State.advanceVisited_voice_of_done before] at after
    exact absurd before after
  · exact absurd before after
  · exact absurd before after

/-! ## The sample: its order (R99) and its range (R102) -/

theorem tableIndex_eq (phase : Word) : tableIndex phase = BitVec.ofNat 8 (phase.toNat / 2 ^ 24) := by
  apply BitVec.eq_of_toNat_eq
  simp [tableIndex, Nat.shiftRight_eq_div_pow]

/-- Settles O27: a DONE voice is left alone; any other takes the five steps. -/
theorem nextSampleInOrder : Obligations.NextSampleInOrder := by
  refine fun wave v => ⟨fun h => ⟨Voice.advance_of_done h, Voice.sample_of_done wave h⟩, fun h => ?_⟩
  have phase : BitVec.ofNat 32 ((v.phase.toNat + v.stepSize.toNat) % 2 ^ 32) = v.phase + v.stepSize := by
    apply BitVec.eq_of_toNat_eq
    simp
  simp only [phase]
  refine ⟨Voice.advance_of_active h, ?_⟩
  rw [Voice.sample_of_active wave h, sampleAt, tableIndex_eq, gain_eq]
  rfl

/-- The gain has 16 bits. -/
theorem gain_le (level : Word) : gain level ≤ 65535 := by
  rw [gain_eq]; omega

/-- A bound on the entries of the table is, times 65535, one on the samples. -/
theorem Voice.sample_abs_le {wave : Vector Entry 256} {bound : Int}
    (entries : ∀ k : BitVec 8, |(waveEntry wave k).toInt| ≤ bound) (v : Voice) :
    |v.sample wave| ≤ bound * 65535 := by
  have nonneg : 0 ≤ bound := (abs_nonneg _).trans (entries 0#8)
  by_cases h : v.envelopeState = .done
  · rw [Voice.sample_of_done wave h, abs_zero]
    positivity
  · have gain : (gain v.envStep.level : Int) ≤ 65535 := by exact_mod_cast gain_le _
    rw [Voice.sample_of_active wave h, sampleAt, abs_mul, Nat.abs_cast]
    exact mul_le_mul (entries _) gain (by positivity) nonneg

theorem entry_abs_le (w : Entry) : |w.toInt| ≤ 32768 :=
  abs_le.2 ⟨BitVec.le_toInt w, (BitVec.toInt_lt (x := w)).le⟩

theorem defaultWave_abs_le (k : BitVec 8) : |(waveEntry defaultWave k).toInt| ≤ 8192 := by
  have inList : k.toNat < waveEntries.length := by rw [waveEntries_length]; exact k.isLt
  have entry := defaultWave_toInt k.isLt
  rw [BitVec.ofNat_toNat, BitVec.setWidth_eq, List.getD_eq_getElem _ _ inList] at entry
  rw [entry]
  exact abs_le.2 (waveEntries_inRange _ (List.getElem_mem inList))

/-- Settles O28: 32768 and 8192 bound the entries; the sums are computed. -/
theorem sampleInRange : Obligations.SampleInRange :=
  ⟨fun wave v => abs_le.1 (Voice.sample_abs_le (fun k => entry_abs_le (waveEntry wave k)) v),
    fun v => abs_le.1 (Voice.sample_abs_le defaultWave_abs_le v), by decide, by decide⟩

/-! ## Silence at and after DONE (R106) -/

/-- Settles O31: the invariant gives the reachable states; a voice enters DONE at level 0, where its sample is 0, and
nothing changes it after. -/
theorem silentAtAndAfterDone : Obligations.SilentAtAndAfterDone := by
  refine ⟨fun s reachable i inBank done => ?_, fun wave v active ends => ?_⟩
  · exact reachable.inv.silent i inBank ((s.voice i).isDone_iff.2 done)
  · have step := Voice.advance_of_active active
    have level : v.envStep.level = 0#32 := Voice.envStep_level_of_done (by rw [step] at ends; exact ends)
    refine ⟨?_, by rw [step]; exact level, fun k => ?_⟩
    · rw [Voice.sample_of_active wave active, level, sampleAt_level_zero]
    · rw [Voice.after_of_done ends k]
      exact ⟨rfl, Voice.sample_of_done wave ends⟩

/-! ## The phase (R107) -/

@[simp] theorem Voice.after_stepSize (v : Voice) (k : Nat) : (v.after k).stepSize = v.stepSize := by
  induction k with
  | zero => rfl
  | succ k ih => rw [Voice.after_succ, Voice.advance_stepSize, ih]

theorem Voice.after_phase {v : Voice} {k : Nat} (active : ∀ j, j < k → (v.after j).envelopeState ≠ .done) :
    (v.after k).phase = v.phase + BitVec.ofNat 32 k * v.stepSize := by
  induction k with
  | zero => simp [Voice.after]
  | succ k ih =>
    have before := ih fun j hj => active j (by omega)
    rw [Voice.after_succ, Voice.advance_of_active (active k (by omega)), before, Voice.after_stepSize,
      BitVec.ofNat_add, BitVec.add_mul, BitVec.one_mul, BitVec.add_assoc]

/-- The number of samples after which a phase of this step size is back where it was. -/
def phasePeriod (stepSize : Word) : Nat := 2 ^ 32 / Nat.gcd stepSize.toNat (2 ^ 32)

/-- The steps of one period add up to a multiple of 2^32. -/
theorem phasePeriod_mul (stepSize : Word) : BitVec.ofNat 32 (phasePeriod stepSize) * stepSize = 0#32 := by
  have multiple : 2 ^ 32 ∣ phasePeriod stepSize * stepSize.toNat := by
    obtain ⟨q, hq⟩ := Nat.gcd_dvd_left stepSize.toNat (2 ^ 32)
    refine ⟨q, ?_⟩
    calc phasePeriod stepSize * stepSize.toNat
      _ = phasePeriod stepSize * (Nat.gcd stepSize.toNat (2 ^ 32) * q) := by rw [← hq]
      _ = 2 ^ 32 * q := by
        rw [← Nat.mul_assoc, phasePeriod, Nat.div_mul_cancel (Nat.gcd_dvd_right _ _)]
  apply BitVec.eq_of_toNat_eq
  rw [BitVec.toNat_mul, BitVec.toNat_ofNat, Nat.mod_mul_mod, Nat.mod_eq_zero_of_dvd multiple]
  rfl

theorem Voice.after_phasePeriod {v : Voice} {k : Nat}
    (active : ∀ j, j < k + phasePeriod v.stepSize → (v.after j).envelopeState ≠ .done) :
    (v.after (k + phasePeriod v.stepSize)).phase = (v.after k).phase := by
  rw [Voice.after_phase active, Voice.after_phase fun j hj => active j (by omega), BitVec.ofNat_add,
    BitVec.add_mul, phasePeriod_mul, BitVec.add_zero]

/-- Settles O32: the phase itself repeats, so its top eight bits do. -/
theorem phaseIsLinearAndPeriodic : Obligations.PhaseIsLinearAndPeriodic := fun _ =>
  ⟨fun _ active => Voice.after_phase active, fun _ active => congrArg tableIndex (Voice.after_phasePeriod active)⟩

end Sys2Proof.Machine
end

section
/-! PROOFS. The shape of a note in samples (spec/40_voice.md R104, R105): one sample in each envelope state, then a run
of samples in each, then the runs one after another from V.reset to DONE. -/

namespace Sys2Proof.Machine

/-- The voice's level is `l` and its envelope state `e`. -/
def Voice.At (v : Voice) (e : EnvelopeState) (l : Nat) : Prop := v.level.toNat = l ∧ v.envelopeState = e

/-! ## One sample in each envelope state -/

/-- The level and the state after a sample of an active voice are those after its envelope step. -/
theorem Voice.advance_at_iff {v : Voice} (active : v.envelopeState ≠ .done) {e : EnvelopeState} {l : Nat} :
    v.advance.At e l ↔ v.envStep.At e l := by
  rw [Voice.advance_of_active active]; rfl

section
variable {v : Voice} {l : Nat}

theorem Voice.At.active {e : EnvelopeState} (h : v.At e l) (active : e ≠ .done) : v.envelopeState ≠ .done := by
  rw [h.2]; exact active

theorem Voice.At.advance_rising (h : v.At .rising l) (c : l + v.attackRate.toNat ≤ 4294967295) :
    v.advance.At .rising (l + v.attackRate.toNat) := by
  rw [Voice.advance_at_iff (h.active (by decide))]
  obtain ⟨rfl, rising⟩ := h
  rw [Voice.envStep_rising rising c]
  exact ⟨BitVec.toNat_add_of_lt (by omega), rising⟩

theorem Voice.At.advance_rising_carry (h : v.At .rising l) (c : 4294967295 < l + v.attackRate.toNat) :
    v.advance.At .falling 4294967295 := by
  rw [Voice.advance_at_iff (h.active (by decide))]
  obtain ⟨rfl, rising⟩ := h
  rw [Voice.envStep_rising_carry rising c]
  exact ⟨rfl, rfl⟩

theorem Voice.At.advance_falling (h : v.At .falling l) (c : v.sustainLevel.toNat + v.decayRate.toNat < l) :
    v.advance.At .falling (l - v.decayRate.toNat) := by
  rw [Voice.advance_at_iff (h.active (by decide))]
  obtain ⟨rfl, falling⟩ := h
  rw [Voice.envStep_falling falling (by omega) (by omega)]
  exact ⟨BitVec.toNat_sub_of_le (BitVec.le_def.2 (by omega)), falling⟩

theorem Voice.At.advance_falling_reached (h : v.At .falling l)
    (c : l ≤ v.sustainLevel.toNat + v.decayRate.toNat) :
    v.advance.At (afterDecay v.sustainLevel) v.sustainLevel.toNat := by
  rw [Voice.advance_at_iff (h.active (by decide))]
  obtain ⟨rfl, falling⟩ := h
  rw [Voice.envStep_falling_reached falling (by omega)]
  exact ⟨rfl, rfl⟩

theorem Voice.At.advance_sustain (h : v.At .sustain l) (c : 0 < v.cyclesRemaining.toInt) :
    v.advance.At .sustain l := by
  rw [Voice.advance_at_iff (h.active (by decide)), Voice.envStep_sustain h.2 c]
  exact h

theorem Voice.At.advance_sustain_elapsed (h : v.At .sustain l) (c : v.cyclesRemaining.toInt ≤ 0) :
    v.advance.At .released l := by
  rw [Voice.advance_at_iff (h.active (by decide)), Voice.envStep_sustain_elapsed h.2 c]
  exact ⟨h.1, rfl⟩

theorem Voice.At.advance_released (h : v.At .released l) (c : v.releaseRate.toNat < l) :
    v.advance.At .released (l - v.releaseRate.toNat) := by
  rw [Voice.advance_at_iff (h.active (by decide))]
  obtain ⟨rfl, released⟩ := h
  rw [Voice.envStep_released released c]
  exact ⟨BitVec.toNat_sub_of_le (BitVec.le_def.2 (by omega)), released⟩

theorem Voice.At.advance_released_reached (h : v.At .released l) (c : l ≤ v.releaseRate.toNat) :
    v.advance.At .done 0 := by
  rw [Voice.advance_at_iff (h.active (by decide))]
  obtain ⟨rfl, released⟩ := h
  rw [Voice.envStep_released_reached released c]
  exact ⟨rfl, rfl⟩

end

/-! ## What samples leave unchanged, and the counter -/

@[simp] theorem Voice.after_attackRate (v : Voice) (k : Nat) : (v.after k).attackRate = v.attackRate := by
  induction k with
  | zero => rfl
  | succ k ih => rw [Voice.after_succ, Voice.advance_attackRate, ih]

@[simp] theorem Voice.after_decayRate (v : Voice) (k : Nat) : (v.after k).decayRate = v.decayRate := by
  induction k with
  | zero => rfl
  | succ k ih => rw [Voice.after_succ, Voice.advance_decayRate, ih]

@[simp] theorem Voice.after_sustainLevel (v : Voice) (k : Nat) : (v.after k).sustainLevel = v.sustainLevel := by
  induction k with
  | zero => rfl
  | succ k ih => rw [Voice.after_succ, Voice.advance_sustainLevel, ih]

@[simp] theorem Voice.after_releaseRate (v : Voice) (k : Nat) : (v.after k).releaseRate = v.releaseRate := by
  induction k with
  | zero => rfl
  | succ k ih => rw [Voice.after_succ, Voice.advance_releaseRate, ih]

/-- A voice that is DONE stays so. -/
theorem Voice.after_done_of_le {v : Voice} {j k : Nat} (h : (v.after j).envelopeState = .done) (le : j ≤ k) :
    (v.after k).envelopeState = .done := by
  obtain ⟨m, rfl⟩ := Nat.exists_eq_add_of_le le
  rw [Voice.after_add, Voice.after_of_done h]
  exact h

/-- The counter of a voice still active after `k` samples: one less for each of them, not below -2^31. -/
theorem Voice.after_cyclesRemaining {v : Voice} {k : Nat} (active : (v.after k).envelopeState ≠ .done) :
    (v.after k).cyclesRemaining.toInt = max (v.cyclesRemaining.toInt - k) (-2147483648) := by
  induction k with
  | zero =>
    have low : -2147483648 ≤ v.cyclesRemaining.toInt := BitVec.le_toInt v.cyclesRemaining
    simp [Voice.after, low]
  | succ k ih =>
    have before : (v.after k).envelopeState ≠ .done := fun h => active (Voice.after_done_of_le h (by omega))
    rw [Voice.after_succ, Voice.advance_of_active before, countDown_toInt, ih before]
    push_cast
    omega

/-! ## A run of samples in each envelope state -/

section
variable {v : Voice} {l : Nat}

theorem Voice.At.after_rising (h : v.At .rising l) {k : Nat} (c : l + k * v.attackRate.toNat ≤ 4294967295) :
    (v.after k).At .rising (l + k * v.attackRate.toNat) := by
  induction k with
  | zero => simpa [Voice.after] using h
  | succ k ih =>
    rw [Nat.add_one_mul, ← Nat.add_assoc] at c ⊢
    rw [Voice.after_succ]
    simpa using (ih (by omega)).advance_rising (by simpa using c)

theorem Voice.At.after_falling (h : v.At .falling l) {j : Nat}
    (c : j = 0 ∨ v.sustainLevel.toNat + j * v.decayRate.toNat < l) :
    (v.after j).At .falling (l - j * v.decayRate.toNat) := by
  induction j with
  | zero => simpa [Voice.after] using h
  | succ j ih =>
    have above : v.sustainLevel.toNat + (j * v.decayRate.toNat + v.decayRate.toNat) < l := by
      rw [← Nat.add_one_mul]; omega
    rw [Voice.after_succ, Nat.add_one_mul, ← Nat.sub_sub]
    simpa using (ih (by omega)).advance_falling (by rw [after_sustainLevel, after_decayRate]; omega)

/-- The level is held for as many samples as the counter, on entry, says. -/
theorem Voice.At.after_sustain (h : v.At .sustain l) {k : Nat} (c : k = 0 ∨ k ≤ v.cyclesRemaining.toInt) :
    (v.after k).At .sustain l := by
  induction k with
  | zero => exact h
  | succ k ih =>
    have held := ih (by omega)
    rw [Voice.after_succ]
    refine held.advance_sustain ?_
    rw [Voice.after_cyclesRemaining (held.active (by decide))]
    omega

theorem Voice.At.after_released (h : v.At .released l) {m : Nat} (c : m = 0 ∨ m * v.releaseRate.toNat < l) :
    (v.after m).At .released (l - m * v.releaseRate.toNat) := by
  induction m with
  | zero => simpa [Voice.after] using h
  | succ m ih =>
    have above : m * v.releaseRate.toNat + v.releaseRate.toNat < l := by
      rw [← Nat.add_one_mul]; omega
    rw [Voice.after_succ, Nat.add_one_mul, ← Nat.sub_sub]
    simpa using (ih (by omega)).advance_released (by rw [after_releaseRate]; omega)

end

/-! ## How many samples a fall takes -/

/-- `k` steps of size `y` are the first, and at least one, that cover the distance `x`. -/
def FirstCover (x y k : Nat) : Prop := ∃ j, k = j + 1 ∧ (j = 0 ∨ j * y < x) ∧ x ≤ j * y + y

theorem firstCover_ceilDiv {x y : Nat} (pos : 0 < y) : FirstCover x y (max 1 (ceilDiv x y)) := by
  have below : y * ceilDiv x y ≤ x + y - 1 := Nat.mul_div_le _ _
  have above : x + y - 1 < y * (ceilDiv x y + 1) := Nat.lt_mul_div_succ _ pos
  cases h : ceilDiv x y with
  | zero =>
    rw [h, Nat.mul_add, Nat.mul_zero] at above
    exact ⟨0, by simp, .inl rfl, by omega⟩
  | succ j =>
    rw [h, Nat.mul_comm, Nat.add_mul] at below above
    refine ⟨j, by simp, .inr (by omega), ?_⟩
    rw [Nat.add_mul] at above
    omega

theorem firstCover_one (y : Nat) : FirstCover 0 y 1 := ⟨0, rfl, .inl rfl, by omega⟩

theorem FirstCover.le {x y k : Nat} (h : FirstCover x y k) : k ≤ max 1 x := by
  obtain ⟨j, rfl, rfl | before, reached⟩ := h
  · omega
  · have step : y ≠ 0 := by rintro rfl; omega
    have : j ≤ j * y := Nat.le_mul_of_pos_right j (Nat.pos_of_ne_zero step)
    omega

theorem decaySamples_firstCover {n : Note} (h : 0 < n.dcy.toNat ∨ n.sus.toNat = 4294967295) :
    FirstCover (4294967295 - n.sus.toNat) n.dcy.toNat (decaySamples n) := by
  unfold decaySamples
  split
  · next zero =>
    have full : 4294967295 - n.sus.toNat = 0 := by simp [zero] at h; omega
    rw [full]
    exact firstCover_one _
  · next nonzero => exact firstCover_ceilDiv (BitVec.toNat_pos_of_ne_zero nonzero)

theorem releaseSamples_firstCover {level rate : Word} (h : rate ≠ 0#32 ∨ level = 0#32) :
    FirstCover level.toNat rate.toNat (releaseSamples level rate) := by
  unfold releaseSamples
  split
  · next zero =>
    have silent : level = 0#32 := h.resolve_left fun nonzero => nonzero zero
    rw [silent]
    exact firstCover_one _
  · next nonzero => exact firstCover_ceilDiv (BitVec.toNat_pos_of_ne_zero nonzero)

/-- A fall from `l` ends at the sustain level. -/
theorem Voice.At.falling_ends {v : Voice} {l k : Nat} (h : v.At .falling l)
    (cover : FirstCover (l - v.sustainLevel.toNat) v.decayRate.toNat k) :
    (v.after k).At (afterDecay v.sustainLevel) v.sustainLevel.toNat := by
  obtain ⟨j, rfl, before, reached⟩ := cover
  rw [Voice.after_succ]
  simpa using (h.after_falling (j := j) (by omega)).advance_falling_reached
    (by rw [after_sustainLevel, after_decayRate]; omega)

/-- A release from `l` ends at 0. -/
theorem Voice.At.released_ends {v : Voice} {l k : Nat} (h : v.At .released l)
    (cover : FirstCover l v.releaseRate.toNat k) : (v.after k).At .done 0 := by
  obtain ⟨j, rfl, before, reached⟩ := cover
  rw [Voice.after_succ]
  exact (h.after_released before).advance_released_reached (by rw [after_releaseRate]; omega)

/-- A SUSTAIN ends at the first sample after the counter ran out, and lasts one sample at least. -/
theorem Voice.At.sustain_ends {v : Voice} {l : Nat} (h : v.At .sustain l) {k : Nat}
    (held : k = 0 ∨ k ≤ v.cyclesRemaining.toInt) (elapsed : v.cyclesRemaining.toInt ≤ k) :
    (v.after (k + 1)).At .released l := by
  have last := h.after_sustain held
  rw [Voice.after_succ]
  refine last.advance_sustain_elapsed ?_
  rw [Voice.after_cyclesRemaining (last.active (by decide))]
  omega

theorem afterDecay_of_pos {target : Word} (h : 0 < target.toNat) : afterDecay target = .sustain := by
  rw [afterDecay_eq, if_neg]
  rintro rfl
  exact absurd h (by decide)

/-! ## A note that is never released, from V.reset on (R104) -/

theorem Voice.reset_at (n : Note) : (Voice.reset n).At .rising 0 := ⟨rfl, rfl⟩

@[simp] theorem Voice.reset_cyclesRemaining (n : Note) : (Voice.reset n).cyclesRemaining = n.dur := rfl
@[simp] theorem Voice.reset_attackRate (n : Note) : (Voice.reset n).attackRate = n.atk := rfl
@[simp] theorem Voice.reset_decayRate (n : Note) : (Voice.reset n).decayRate = n.dcy := rfl
@[simp] theorem Voice.reset_sustainLevel (n : Note) : (Voice.reset n).sustainLevel = n.sus := rfl
@[simp] theorem Voice.reset_releaseRate (n : Note) : (Voice.reset n).releaseRate = n.rls := rfl

theorem note_rising (n : Note) {k : Nat} (c : k * n.atk.toNat ≤ 4294967295) :
    ((Voice.reset n).after k).At .rising (k * n.atk.toNat) := by
  simpa using (Voice.reset_at n).after_rising (k := k) (by simpa using c)

section
variable {n : Note} (attack : 0 < n.atk.toNat)
include attack

theorem note_attack_ends : ((Voice.reset n).after (attackSamples n)).At .falling 4294967295 := by
  rw [attackSamples, Voice.after_succ]
  refine (note_rising n (Nat.div_mul_le_self 4294967295 n.atk.toNat)).advance_rising_carry ?_
  simpa using Nat.lt_div_mul_add attack

theorem note_falling {j : Nat} (c : n.sus.toNat + j * n.dcy.toNat < 4294967295) :
    ((Voice.reset n).after (attackSamples n + j)).At .falling (4294967295 - j * n.dcy.toNat) := by
  rw [Voice.after_add]
  simpa using (note_attack_ends attack).after_falling (j := j) (.inr (by simpa using c))

variable (decay : 0 < n.dcy.toNat ∨ n.sus.toNat = 4294967295)
include decay

theorem note_decay_ends :
    ((Voice.reset n).after (attackSamples n + decaySamples n)).At (afterDecay n.sus) n.sus.toNat := by
  rw [Voice.after_add]
  simpa using (note_attack_ends attack).falling_ends (by simpa using decaySamples_firstCover decay)

variable (audible : 0 < n.sus.toNat)
include audible

theorem note_sustain_begins :
    ((Voice.reset n).after (attackSamples n + decaySamples n)).At .sustain n.sus.toNat := by
  rw [← afterDecay_of_pos audible]
  exact note_decay_ends attack decay

theorem note_sustain_counter :
    ((Voice.reset n).after (attackSamples n + decaySamples n)).cyclesRemaining.toInt =
      max (n.dur.toInt - (attackSamples n + decaySamples n : Nat)) (-2147483648) :=
  Voice.after_cyclesRemaining ((note_sustain_begins attack decay audible).active (by decide))

theorem note_sustain {k : Nat} (entered : attackSamples n + decaySamples n ≤ k) (inTime : k < releaseSample n) :
    ((Voice.reset n).after k).At .sustain n.sus.toNat := by
  obtain ⟨i, rfl⟩ := Nat.exists_eq_add_of_le entered
  unfold releaseSample at inTime
  rw [Voice.after_add]
  refine (note_sustain_begins attack decay audible).after_sustain ?_
  rw [note_sustain_counter attack decay audible]
  omega

theorem note_release_begins : ((Voice.reset n).after (releaseSample n)).At .released n.sus.toNat := by
  obtain ⟨i, hi⟩ : ∃ i, releaseSample n = attackSamples n + decaySamples n + 1 + i :=
    Nat.exists_eq_add_of_le (Nat.le_max_left _ _)
  have counter := note_sustain_counter attack decay audible
  rw [hi, Nat.add_right_comm, Nat.add_assoc, Voice.after_add]
  unfold releaseSample at hi
  exact (note_sustain_begins attack decay audible).sustain_ends (by omega) (by omega)

theorem note_released {m : Nat} (c : m * n.rls.toNat < n.sus.toNat) :
    ((Voice.reset n).after (releaseSample n + m)).At .released (n.sus.toNat - m * n.rls.toNat) := by
  rw [Voice.after_add]
  simpa using (note_release_begins attack decay audible).after_released (m := m) (.inr (by simpa using c))

theorem note_release_ends (release : n.rls ≠ 0#32) :
    ((Voice.reset n).after (releaseSample n + releaseSamples n.sus n.rls)).At .done 0 := by
  rw [Voice.after_add]
  exact (note_release_begins attack decay audible).released_ends
    (by simpa using releaseSamples_firstCover (.inl release))

end

theorem Voice.At.level_eq {v : Voice} {e : EnvelopeState} {w : Word} (h : v.At e w.toNat) : v.level = w :=
  BitVec.eq_of_toNat_eq h.1

/-- Settles O29: the events of R104 in their order. -/
theorem noteTimeline : Obligations.NoteTimeline := by
  refine fun n => ⟨fun k c => note_rising n c, fun attack => ⟨?_, fun j c => note_falling attack c, fun decay => ?_⟩⟩
  · have fall := note_attack_ends attack
    exact ⟨fall.level_eq (w := 0xFFFFFFFF#32), fall.2⟩
  · have decayed := note_decay_ends attack decay
    refine ⟨⟨decayed.level_eq, by simp [decayed.2, afterDecay_eq, BitVec.toNat_eq]⟩, fun audible => ⟨?_, ?_, ?_⟩⟩
    · intro k entered inTime
      have held := note_sustain attack decay audible entered inTime
      exact ⟨held.level_eq, held.2⟩
    · exact fun m c => note_released attack decay audible c
    · intro release
      have ended := note_release_ends attack decay audible (by rintro zero; simp [zero] at release)
      exact ⟨ended.2, ended.level_eq (w := 0#32)⟩

/-! ## Termination (R105) -/

theorem Note.valid.decay {n : Note} (valid : n.valid) : 0 < n.dcy.toNat ∨ n.sus.toNat = 4294967295 := by
  obtain ⟨-, decay, -⟩ := valid
  exact decay.imp BitVec.toNat_pos_of_ne_zero fun full => by rw [full]; rfl

/-- A note with a sustain level of 0 ends with its decay; any other ends with its release. -/
theorem note_ends {n : Note} (valid : n.valid) :
    ((Voice.reset n).after (releaseSample n + releaseSamples n.sus n.rls)).envelopeState = .done := by
  have decay := valid.decay
  obtain ⟨nonzero, -, release⟩ := valid
  have attack := BitVec.toNat_pos_of_ne_zero nonzero
  by_cases silent : n.sus = 0#32
  · have ended : ((Voice.reset n).after (attackSamples n + decaySamples n)).envelopeState = .done :=
      (note_decay_ends attack decay).2.trans ((afterDecay_done_iff _).2 silent)
    exact Voice.after_done_of_le ended (by unfold releaseSample; omega)
  · exact (note_release_ends attack decay (BitVec.toNat_pos_of_ne_zero silent) (release.resolve_right silent)).2

theorem attackSamples_le (n : Note) : attackSamples n ≤ 2 ^ 32 :=
  Nat.succ_le_succ (Nat.div_le_self 4294967295 n.atk.toNat)

/-- Settles O30: the note and the released voice end, and each part of the bound is bounded by the distance covered. -/
theorem noteTerminates : Obligations.NoteTerminates := by
  refine ⟨fun n valid => ⟨note_ends valid, attackSamples_le n, ?_, ?_⟩, fun v release => ?_⟩
  · exact (decaySamples_firstCover valid.decay).le.trans (by omega)
  · obtain ⟨-, -, release⟩ := valid
    exact (releaseSamples_firstCover release).le.trans (by omega)
  · have released : v.release.At .released v.level.toNat := ⟨rfl, rfl⟩
    exact (released.released_ends (releaseSamples_firstCover release)).2

end Sys2Proof.Machine
end

section
/-! PROOFS. The answers of the commands (spec/41_pool_commands.md R121 to R128): what each leaves in the state, what it
leaves unchanged, and the one response that every word ends in. -/

namespace Sys2Proof.Machine

/-! ## Every word is answered (R121, R170) -/

/-- Whatever the word, executing it ends in a legal response and writes nothing on the host's side. -/
theorem execute_next (w : Word) (s : State) :
    ∃ t, execute w s = .next t ∧ s.SameHostSide t ∧ t.ResponseLegal := by
  cases d : decode w with
  | illegal why =>
    exact ⟨_, execute_illegal d s, ⟨rfl, rfl, rfl, rfl, rfl, rfl, rfl, fun _ => rfl, rfl, rfl⟩, s.fail_legal _⟩
  | instr i =>
    obtain ⟨t, e⟩ := exec_next i s
    exact ⟨t, (execute_instr d s).trans e, exec_sameHostSide e, exec_responseLegal e⟩

/-- The host observes what a write of CMD leaves in the response registers (R13). -/
theorem hostAccess_write_cmd {w : Word} {s t : State} (h : regWrite 0 w s = .next t) :
    hostAccess (.write 0 w) s = .next t.observeResponse := by
  rw [hostAccess, hostWrite, h, andThen_next, if_pos rfl]

theorem word_cases_of_le_three {w : Word} (h : w.toNat ≤ 3) : w = 0#32 ∨ w = 1#32 ∨ w = 2#32 ∨ w = 3#32 := by
  simp only [BitVec.toNat_eq, BitVec.toNat_ofNat]
  omega

/-- Settles O7: `execute_next` gives the one response, which the host's access adds to what is observed. -/
theorem everyWordEndsInOneResponse : Obligations.EveryWordEndsInOneResponse := by
  refine ⟨fun s r => ⟨rfl, rfl, rfl, rfl⟩, fun w s => ?_⟩
  obtain ⟨t, e, same, code, result⟩ := execute_next w (s.setCmd w)
  have written : regWrite 0 w s = .next t := e
  have observed : t.observeResponse = { t with trace := .response t.rcode t.result :: s.trace } := by
    rw [State.observeResponse, State.observe, same.trace, State.setCmd_trace]
  exact ⟨t, written, same.trace, observed ▸ hostAccess_write_cmd written, word_cases_of_le_three code, result⟩

/-! ## ALLOC (R122) -/

theorem exec_alloc_some {s : State} {i : Nat} (h : s.firstFree = some i) : exec .alloc s = .next (s.allocate i) := by
  rw [exec, execAlloc, h]

theorem exec_alloc_none {s : State} (h : s.firstFree = none) : exec .alloc s = .next (s.fail .failure) := by
  rw [exec, execAlloc, h]

theorem State.allocate_voice_self {s : State} {i : Nat} (h : i < s.nVoices) :
    (s.allocate i).voice i = Voice.reset s.note := by
  rw [State.allocate_voice, if_pos ⟨rfl, h⟩]

theorem State.allocate_voice_ne (s : State) {i j : Nat} (h : j ≠ i) : (s.allocate i).voice j = s.voice j := by
  rw [State.allocate_voice, if_neg fun same => h same.1]

/-- Settles O10: the scan answers the least free voice, or none. -/
theorem allocTakesTheLeastFreeVoice : Obligations.AllocTakesTheLeastFreeVoice := by
  refine fun s => ⟨fun i inBank done before => ?_, fun active => ?_⟩
  · have free : s.firstFree = some i := State.firstFree_eq_some.2
      ⟨inBank, (Voice.isDone_iff _).2 done, fun j hj => (Voice.not_isDone_iff _).2 (before j hj)⟩
    have answer := exec_alloc_some free
    exact ⟨_, answer, State.allocate_voice_self inBank, fun j => s.allocate_voice_ne, s.allocate_nVoices i,
      s.allocate_hai i, rfl, rfl, exec_sameHostSide answer⟩
  · exact exec_alloc_none (State.firstFree_eq_none.2 fun j hj => (Voice.not_isDone_iff _).2 (active j hj))

/-! ## REL (R124) -/

/-- Voice `i` released and HAI raised to it: what REL does before it responds. -/
def State.releaseVoice (s : State) (i : Nat) : State := (s.setVoice i (s.voice i).release).raiseHai i

theorem exec_rel {idx : BitVec 8} {s : State} (h : idx.toNat < s.nVoices) :
    exec (.rel idx) s = .next ((s.releaseVoice idx.toNat).respond .ok 0#32) := by
  rw [exec, execRel, withIndex_of_lt _ h, State.releaseVoice]

@[simp] theorem State.releaseVoice_hai (s : State) (i : Nat) : (s.releaseVoice i).hai = max s.hai i := rfl

@[simp] theorem State.releaseVoice_nVoices (s : State) (i : Nat) : (s.releaseVoice i).nVoices = s.nVoices :=
  s.setVoice_nVoices i _

theorem State.releaseVoice_voice_self {s : State} {i : Nat} (h : i < s.nVoices) :
    (s.releaseVoice i).voice i = (s.voice i).release :=
  State.setVoice_voice_self _ h

theorem State.releaseVoice_voice_ne (s : State) {i j : Nat} (h : j ≠ i) : (s.releaseVoice i).voice j = s.voice j :=
  State.setVoice_voice_ne _ h

/-- Settles O11: in range `exec_rel`, out of range `exec_index_ge`. -/
theorem relReleasesTheVoice : Obligations.RelReleasesTheVoice := by
  refine fun idx s => ⟨fun inBank => ?_, fun out => exec_index_ge rfl out⟩
  have answer := exec_rel inBank
  exact ⟨_, answer, State.releaseVoice_voice_self inBank, fun j => s.releaseVoice_voice_ne,
    s.releaseVoice_nVoices _, s.releaseVoice_hai _, rfl, rfl, exec_sameHostSide answer⟩

/-! ## RECLAIM (R125) and ISDONE (R128) -/

theorem reclaimedHai_self {s : State} {i : Nat} (h : (i : Int) = s.hai) : reclaimedHai s i = s.scanDown (i + 1) :=
  if_pos h

theorem reclaimedHai_other {s : State} {i : Nat} (h : (i : Int) ≠ s.hai) : reclaimedHai s i = s.hai :=
  if_neg h

/-- Settles O12: at HAI the answer is the downward scan, whose result `State.scanDown_spec` describes. -/
theorem reclaimScansDown : Obligations.ReclaimScansDown := by
  refine fun idx s => ⟨fun inBank atHai => ?_, fun inBank other => ?_, fun out => exec_index_ge rfl out⟩
  · obtain ⟨low, below, above, active⟩ := s.scanDown_spec (idx.toNat + 1)
    refine ⟨s.scanDown (idx.toNat + 1), ?_, low, by omega, fun k lower upper => ?_, fun found => ?_⟩
    · rw [exec, execReclaim_of_lt inBank, reclaimedHai_self atHai]
      rfl
    · exact (Voice.isDone_iff _).1 (above k lower (by omega))
    · exact (Voice.not_isDone_iff _).1 (active found)
  · rw [exec, execReclaim_of_lt inBank, reclaimedHai_other other]
    rfl

theorem exec_isdone {idx : BitVec 8} {s : State} (h : idx.toNat < s.nVoices) :
    exec (.isdone idx) s = .next (s.respond .ok (if (s.voice idx.toNat).isDone then 1#32 else 0#32)) := by
  rw [exec, execIsdone, withIndex_of_lt _ h]

/-- Settles O14: in range `exec_isdone`, out of range `exec_index_ge`. -/
theorem isdoneAnswersTheState : Obligations.IsdoneAnswersTheState := by
  refine fun idx s => ⟨fun inBank => ?_, fun out => exec_index_ge rfl out⟩
  simp only [exec_isdone inBank, Voice.isDone_iff]
  rfl

/-! ## What each command leaves unchanged -/

/-- Settles O15, one case per answer of `exec_eq_next`. -/
theorem frameOfEveryCommand : Obligations.FrameOfEveryCommand := by
  intro i s t e
  refine ⟨exec_sameHostSide e, exec_nVoices e, ?_⟩
  rcases exec_eq_next e with ⟨k, rfl, free, rfl⟩ | ⟨rfl, -, rfl⟩ | ⟨idx, rfl, -, rfl⟩ | ⟨idx, rfl, -, rfl⟩ |
    ⟨rfl, rfl⟩ | ⟨idx, rfl, -, rfl⟩ | ⟨idx, -, -, rfl⟩
  · refine ⟨fun j other => s.allocate_voice_ne ?_, fun none => absurd (free.symm.trans none) (Option.some_ne_none k)⟩
    rintro rfl
    exact other free
  · exact ⟨fun _ _ => rfl, fun _ => rfl⟩
  · exact fun k other => State.setVoice_voice_ne _ other
  · exact ⟨rfl, fun other => reclaimedHai_other other⟩
  · refine ⟨fun k above => ?_, rfl⟩
    rw [State.respond_voice, State.advanceVisited_voice, if_neg (Nat.not_lt.2 above)]
  · exact ⟨rfl, rfl⟩
  · cases i with
    | alloc => exact ⟨fun _ _ => rfl, fun _ => rfl⟩
    | rel => exact fun _ _ => rfl
    | reclaim => exact ⟨rfl, fun _ => rfl⟩
    | mix => exact ⟨fun _ _ => rfl, rfl⟩
    | isdone => exact ⟨rfl, rfl⟩

end Sys2Proof.Machine
end

section
/-! PROOFS. The mixer (spec/41_pool_commands.md R126, R127, R131, R133): the saturating adder, the accumulator of MIX
as one equation per voice, and what a DONE voice adds to it. -/

namespace Sys2Proof.Machine

/-! ## The saturating adder (R126) -/

theorem satadd32_comm (a b : Int) : satadd32 a b = satadd32 b a := by
  rw [satadd32, satadd32, Int.add_comm]

theorem satadd32_exact {a b : Int} (low : -2147483648 ≤ a + b) (high : a + b ≤ 2147483647) :
    satadd32 a b = a + b :=
  (if_neg (not_lt.2 high)).trans (if_neg (not_lt.2 low))

theorem satadd32_above {a b : Int} (h : 2147483647 < a + b) : satadd32 a b = 2147483647 :=
  if_pos h

theorem satadd32_below {a b : Int} (h : a + b < -2147483648) : satadd32 a b = -2147483648 := by
  have notAbove : ¬ 2147483647 < a + b := by omega
  exact (if_neg notAbove).trans (if_pos h)

/-- Settles O16: one lemma per branch of the adder; the signs of the operands are linear arithmetic. -/
theorem saturatingAdditionClamps : Obligations.SaturatingAdditionClamps := by
  refine ⟨fun a b aLow aHigh bLow bHigh => ?_, by decide, by decide⟩
  exact ⟨satadd32_range a b, satadd32_exact, fun above => ⟨by omega, by omega, satadd32_above above⟩,
    fun below => ⟨by omega, by omega, satadd32_below below⟩, satadd32_zero aLow aHigh, satadd32_comm a b⟩

/-! ## The accumulator of MIX -/

/-- One voice more at the end. Beyond the file nothing is added, as a free voice adds nothing. -/
theorem mixVoices_succ (wave : Vector Entry 256) (k : Nat) (vs : List Voice) {acc : Int}
    (low : -2147483648 ≤ acc) (high : acc ≤ 2147483647) :
    mixVoices wave (k + 1) vs acc =
      satadd32 (mixVoices wave k vs acc) ((vs.getD k Voice.free).sample wave) := by
  induction vs generalizing k acc with
  | nil =>
    have same : mixVoices wave k [] acc = acc := by cases k <;> rfl
    have silent : (([] : List Voice).getD k Voice.free).sample wave = 0 := Voice.sample_of_done wave rfl
    rw [same, silent, satadd32_zero low high, mixVoices]
  | cons v vs ih =>
    cases k with
    | zero => rfl
    | succ k =>
      obtain ⟨low, high⟩ := satadd32_range acc (v.sample wave)
      exact ih k low high

/-- The accumulator of MIX after the voices below `k` (R127). -/
def State.mixedTo (s : State) (k : Nat) : Int := mixVoices s.wave k s.voices 0

theorem exec_mix (s : State) :
    exec .mix s = .next (s.advanceVisited.respond .ok (toU32 (s.mixedTo s.visited))) := rfl

@[simp] theorem State.mixedTo_zero (s : State) : s.mixedTo 0 = 0 := rfl

theorem State.mixedTo_succ (s : State) (k : Nat) :
    s.mixedTo (k + 1) = satadd32 (s.mixedTo k) ((s.voice k).sample s.wave) :=
  mixVoices_succ s.wave k s.voices (by decide) (by decide)

theorem State.mixedTo_eq_foldl (s : State) (k : Nat) :
    s.mixedTo k = (List.range k).foldl (fun acc i => satadd32 acc ((s.voice i).sample s.wave)) 0 := by
  induction k with
  | zero => rfl
  | succ k ih => rw [State.mixedTo_succ, ih, List.range_succ, List.foldl_append, List.foldl_cons, List.foldl_nil]

/-- MIX visits the voices up to HAI. -/
theorem State.lt_visited_iff {s : State} {i : Nat} : i < s.visited ↔ (i : Int) ≤ s.hai := by
  unfold State.visited
  omega

/-- Settles O13: `State.mixedTo_eq_foldl` for the sum, `State.advanceVisited_voice` for each voice. -/
theorem mixSumsAscending : Obligations.MixSumsAscending := by
  intro s _ _
  refine ⟨_, exec_mix s, rfl, congrArg toU32 (s.mixedTo_eq_foldl _), fun i upTo => ?_, fun i above => ?_,
    s.advanceVisited_nVoices, rfl, exec_sameHostSide (exec_mix s)⟩
  · rw [State.respond_voice, State.advanceVisited_voice, if_pos (State.lt_visited_iff.2 upTo)]
  · rw [State.respond_voice, State.advanceVisited_voice, if_neg (by rw [State.lt_visited_iff]; omega)]

/-! ## The range of the accumulator (R131) -/

theorem State.mixedTo_range (s : State) (k : Nat) : -2147483648 ≤ s.mixedTo k ∧ s.mixedTo k ≤ 2147483647 := by
  cases k with
  | zero => rw [State.mixedTo_zero]; decide
  | succ k => rw [State.mixedTo_succ]; exact satadd32_range _ _

theorem toU32_toInt {k : Int} (low : -2147483648 ≤ k) (high : k ≤ 2147483647) : (toU32 k).toInt = k :=
  BitVec.toInt_ofInt_eq_self (by decide) low (Int.lt_add_one_of_le high)

/-- Settles O17: every addition saturates, so RESULT holds the accumulator exactly. -/
theorem mixStaysInRange : Obligations.MixStaysInRange := by
  intro s
  obtain ⟨low, high⟩ := s.mixedTo_range s.visited
  refine ⟨low, high, fun t e => ?_⟩
  cases e
  exact toU32_toInt low high

/-! ## A stale HAI (R133) -/

/-- Past the voices that are not DONE nothing more is added. -/
theorem State.mixedTo_of_le {s : State} {k m : Nat} (done : ∀ i, k ≤ i → (s.voice i).envelopeState = .done)
    (h : k ≤ m) : s.mixedTo m = s.mixedTo k := by
  induction m, h using Nat.le_induction with
  | base => rfl
  | succ m h ih =>
    obtain ⟨low, high⟩ := s.mixedTo_range m
    rw [State.mixedTo_succ, Voice.sample_of_done s.wave (done m h), satadd32_zero low high, ih]

theorem State.WeakPool.done_of_visited_le {s : State} (h : s.WeakPool) {i : Nat} (above : s.visited ≤ i) :
    (s.voice i).envelopeState = .done := by
  by_cases inBank : i < s.nVoices
  · exact (Voice.isDone_iff _).1 (h i (by rwa [← not_lt, State.lt_visited_iff, not_le] at above) inBank)
  · rw [State.voice_beyond (Nat.not_lt.1 inBank)]
    rfl

theorem State.visited_le_setHai {s : State} {h : Int} (le : s.hai ≤ h) : s.visited ≤ (s.setHai h).visited := by
  unfold State.visited
  rw [State.setHai_hai]
  omega

theorem State.voices_ext {s t : State} (size : s.nVoices = t.nVoices) (voice : ∀ i, s.voice i = t.voice i) :
    s.voices = t.voices := by
  refine List.ext_getElem size fun i hs ht => ?_
  have same := voice i
  rwa [State.voice, State.voice, List.getD_eq_getElem _ _ hs, List.getD_eq_getElem _ _ ht] at same

/-- Voices that MIX visits only because HAI is too high are DONE, and a sample leaves them as they are. -/
theorem State.WeakPool.advanceVisited_setHai {s : State} (pool : s.WeakPool) {h : Int} (le : s.hai ≤ h) :
    (s.setHai h).advanceVisited.voices = s.advanceVisited.voices := by
  have more := State.visited_le_setHai le
  refine State.voices_ext (by simp) fun i => ?_
  rw [State.advanceVisited_voice, State.advanceVisited_voice, State.setHai_voice]
  by_cases visited : i < s.visited
  · rw [if_pos visited, if_pos (visited.trans_le more)]
  · rw [if_neg visited, Voice.advance_of_done (pool.done_of_visited_le (Nat.not_lt.1 visited)), ite_self]

/-- Settles O18: nothing is added and nothing changes above the true HAI. -/
theorem staleHaiIsHarmless : Obligations.StaleHaiIsHarmless := by
  intro s h pool le
  have sum : s.mixedTo (s.setHai h).visited = s.mixedTo s.visited :=
    State.mixedTo_of_le (fun _ => pool.done_of_visited_le) (State.visited_le_setHai le)
  exact ⟨_, _, exec_mix s, exec_mix (s.setHai h), congrArg toU32 sum, pool.advanceVisited_setHai le⟩

/-! ## A released free voice (R203) -/

/-- The accumulator depends on the samples only. -/
theorem State.mixedTo_congr {s t : State}
    (sample : ∀ i, (t.voice i).sample t.wave = (s.voice i).sample s.wave) (k : Nat) : t.mixedTo k = s.mixedTo k := by
  induction k with
  | zero => rfl
  | succ k ih => rw [State.mixedTo_succ, State.mixedTo_succ, ih, sample]

theorem State.releaseVoice_visited (s : State) (i : Nat) : (s.releaseVoice i).visited = max s.visited (i + 1) := by
  unfold State.visited
  rw [State.releaseVoice_hai]
  omega

/-- A DONE voice at level 0 is mute once it is released. -/
theorem Voice.release_mute {v : Voice} (h : v.level = 0#32) : v.release.mute := ⟨h, .inr rfl⟩

/-- A silent voice adds as little RELEASED as it did DONE. -/
theorem State.mixedTo_releaseVoice {s : State} {i : Nat} (inBank : i < s.nVoices)
    (done : (s.voice i).envelopeState = .done) (silent : (s.voice i).level = 0#32) (k : Nat) :
    (s.releaseVoice i).mixedTo k = s.mixedTo k := by
  refine State.mixedTo_congr (fun j => ?_) k
  rcases eq_or_ne j i with rfl | other
  · rw [State.releaseVoice_voice_self inBank, (Voice.release_mute silent).sample, Voice.sample_of_done s.wave done]
  · rw [State.releaseVoice_voice_ne s other]
    rfl

/-- Settles O19: the released voice is mute (R31), so it adds nothing to MIX, which ends it. -/
theorem releasedFreeVoiceEndsAtTheNextMix : Obligations.ReleasedFreeVoiceEndsAtTheNextMix := by
  intro idx s inv inBank done
  have silent : (s.voice idx.toNat).level = 0#32 := inv.silent _ inBank ((Voice.isDone_iff _).2 done)
  have released := State.releaseVoice_voice_self inBank
  refine ⟨_, _, _, exec_rel inBank, exec_mix _, exec_mix s, rfl, fun scanned => ?_, rfl, congrArg toU32 ?_, ?_⟩
  · obtain ⟨-, free, -⟩ := State.firstFree_eq_some.1 scanned
    rw [State.respond_voice, released, Voice.release_isDone] at free
    cases free
  · calc (s.releaseVoice idx.toNat).mixedTo (s.releaseVoice idx.toNat).visited
      _ = s.mixedTo (max s.visited (idx.toNat + 1)) := by
        rw [State.mixedTo_releaseVoice inBank done silent, State.releaseVoice_visited]
      _ = s.mixedTo s.visited := State.mixedTo_of_le (fun _ => inv.pool.done_of_visited_le) (le_max_left _ _)
  · have visited : idx.toNat < (s.releaseVoice idx.toNat).visited := State.lt_visited_iff.2 (le_max_right _ _)
    have ended : (s.releaseVoice idx.toNat).advanceVisited.voice idx.toNat = (s.voice idx.toNat).release.advance := by
      rw [State.advanceVisited_voice, if_pos visited, released]
    exact (congrArg Voice.envelopeState ended).trans (Voice.release_mute silent).advance.2

end Sys2Proof.Machine
end

section
/-! PROOFS. Sequences of commands (spec/41_pool_commands.md R132, R134): the strong pool property without MIX, and the
order in which ALLOC gives the voices out after reset. -/

namespace Sys2Proof.Machine

/-! ## ALLOC, REL and ISDONE (R132) -/

/-- A property that each command of a sequence keeps is kept by the sequence. -/
theorem execAll_keeps {P : State → Prop} {is : List Instr} {s t : State}
    (kept : ∀ i, i ∈ is → ∀ u v, P u → exec i u = .next v → P v) (h : P s) (e : execAll is s = .next t) : P t := by
  induction is generalizing s with
  | nil => cases e; exact h
  | cons i is ih =>
    obtain ⟨u, first, rest⟩ := andThen_eq_next e
    exact ih (fun j mem => kept j (.tail i mem)) (kept i (.head is) s u h first) rest

/-- HAI stays NONE or the index of a voice under every command (R29). -/
theorem exec_keeps_wellSized {i : Instr} {s t : State} (h : s.WellSized) (e : exec i s = .next t) : t.WellSized := by
  obtain ⟨legal, low, high⟩ := h
  have size : t.nVoices = s.nVoices := exec_nVoices e
  refine ⟨by rwa [size], ?_⟩
  rw [size]
  rcases exec_eq_next e with ⟨k, -, free, rfl⟩ | ⟨-, -, rfl⟩ | ⟨idx, -, inBank, rfl⟩ | ⟨idx, -, -, rfl⟩ | ⟨-, rfl⟩ |
    ⟨idx, -, -, rfl⟩ | ⟨idx, -, -, rfl⟩
  · have inBank := (State.firstFree_eq_some.1 free).1
    rw [State.allocate_hai]
    omega
  · exact ⟨low, high⟩
  · rw [State.respond_hai, State.raiseHai_hai, State.setVoice_hai]
    omega
  · rw [State.respond_hai, State.setHai_hai]
    rcases reclaimedHai_spec s idx.toNat with same | ⟨_, _, -⟩
    all_goals omega
  · exact ⟨low, high⟩
  · exact ⟨low, high⟩
  · exact ⟨low, high⟩

/-- Settles O49: none of the three commands is MIX, the only one that can lose the property. -/
theorem strongPoolUnderAllocRelIsdone : Obligations.StrongPoolUnderAllocRelIsdone := by
  intro is s t commands sized strong e
  refine execAll_keeps (P := fun u => u.WellSized ∧ u.StrongPool) (fun i mem u v h step => ?_) ⟨sized, strong⟩ e
  have notMix : i ≠ .mix := by
    rcases commands i mem with rfl | ⟨idx, rfl⟩ | ⟨idx, rfl⟩
    all_goals exact Instr.noConfusion
  exact ⟨exec_keeps_wellSized h.1 step, exec_keeps_strongPool notMix h.2 step⟩

/-! ## ALLOCs after reset (R134) -/

/-- The voices below `k` are active, those from `k` on free, and HAI is the last active one. -/
structure State.FilledTo (k : Nat) (s : State) : Prop where
  hai : s.hai = (k : Int) - 1
  active : ∀ j, j < k → (s.voice j).isDone = false
  free : ∀ j, k ≤ j → (s.voice j).isDone = true

theorem powerOn_filledTo (n : Nat) (wave : Vector Entry 256) : (State.powerOn n wave).FilledTo 0 where
  hai := rfl
  active _ below := absurd below (Nat.not_lt_zero _)
  free j _ := by rw [powerOn_voice]; rfl

theorem State.FilledTo.firstFree {s : State} {k : Nat} (h : s.FilledTo k) (room : k < s.nVoices) :
    s.firstFree = some k :=
  State.firstFree_eq_some.2 ⟨room, h.free k le_rfl, h.active⟩

theorem State.FilledTo.firstFree_full {s : State} (h : s.FilledTo s.nVoices) : s.firstFree = none :=
  State.firstFree_eq_none.2 h.active

theorem State.FilledTo.allocate {s : State} {k : Nat} (h : s.FilledTo k) (room : k < s.nVoices) :
    (s.allocate k).FilledTo (k + 1) where
  hai := by rw [State.allocate_hai, h.hai]; omega
  active j below := by
    rcases Nat.lt_succ_iff_lt_or_eq.1 below with before | rfl
    · rw [s.allocate_voice_ne before.ne]
      exact h.active j before
    · rw [State.allocate_voice_self room]
      exact Voice.reset_isDone _
  free j above := by
    rw [s.allocate_voice_ne (Nat.ne_of_gt above)]
    exact h.free j (Nat.le_of_succ_le above)

/-- Each of `k` ALLOCs takes the next voice, while there is one. -/
theorem execAll_alloc_filledTo {s : State} {j k : Nat} (h : s.FilledTo j) (room : j + k ≤ s.nVoices) :
    ∃ t, execAll (List.replicate k .alloc) s = .next t ∧ t.FilledTo (j + k) ∧ t.nVoices = s.nVoices := by
  induction k generalizing s j with
  | zero => exact ⟨s, rfl, h, rfl⟩
  | succ k ih =>
    have here : j < s.nVoices := by omega
    have size : (s.allocate j).nVoices = s.nVoices := s.allocate_nVoices j
    obtain ⟨t, run, filled, same⟩ := ih (h.allocate here) (by omega)
    refine ⟨t, ?_, by rwa [Nat.add_right_comm] at filled, same.trans size⟩
    rw [List.replicate_succ, execAll, exec_alloc_some (h.firstFree here), andThen_next, run]

/-- Settles O20: after `k` ALLOCs the bank is filled to `k`. -/
theorem allocsAfterResetAscend : Obligations.AllocsAfterResetAscend := by
  intro n wave k bound
  obtain ⟨s, run, filled, size⟩ :=
    execAll_alloc_filledTo (powerOn_filledTo n wave) (k := k) (by rwa [powerOn_nVoices, Nat.zero_add])
  rw [Nat.zero_add] at filled
  rw [powerOn_nVoices] at size
  rcases bound.lt_or_eq with room | rfl
  · refine ⟨s, _, run, exec_alloc_some (filled.firstFree (size ▸ room)), fun _ => ⟨rfl, rfl, ?_⟩,
      fun full => absurd full room.ne⟩
    rw [State.allocate_hai, filled.hai]
    omega
  · refine ⟨s, _, run, exec_alloc_none (State.FilledTo.firstFree_full (size.symm ▸ filled)),
      fun room => absurd room (lt_irrefl _), fun _ => ⟨rfl, rfl⟩⟩

end Sys2Proof.Machine
end

section
/-! PROOFS. The operand words that a host derives (spec/42_host_contract.md R150 to R156): each is the floor of the
exact quotient, and every derived note ends. -/

namespace Sys2Proof.Machine

/-- A number of 32 bits is not changed by being put in a word. -/
theorem ofNat_toNat_of_le {x : Nat} (h : x ≤ 4294967295) : (BitVec.ofNat 32 x).toNat = x := by
  rw [BitVec.toNat_ofNat, Nat.mod_eq_of_lt (Nat.lt_succ_of_le h)]

/-- The floor of an exact quotient of naturals is their truncated quotient. -/
theorem floor_of_eq_div {x : ℚ} {n d : Nat} (h : x = n / d) : ⌊x⌋ = ((n / d : Nat) : Int) := by
  rw [h, Rat.floor_natCast_div_natCast, Int.natCast_div]

/-! ## Frequency and duration (R150, R151) -/

/-- The range check of R150 bounds the step size by one half of the phase's range. -/
theorem stepSize_le {fs : Nat} {f : Ratio} (h : freqInRange fs f = true) :
    f.num * 2 ^ 32 / (f.den * fs) ≤ 2 ^ 31 := by
  have inRange : 2 * f.num ≤ f.den * fs := of_decide_eq_true h
  exact Nat.div_le_of_le_mul (by omega)

theorem freqWord_toNat {fs : Nat} {f : Ratio} (h : freqInRange fs f = true) :
    (freqWord fs f).toNat = f.num * 2 ^ 32 / (f.den * fs) :=
  ofNat_toNat_of_le ((stepSize_le h).trans (by decide))

theorem floor_frequency (fs : Nat) (f : Ratio) :
    ⌊((f.num : ℚ) / f.den) * 2 ^ 32 / fs⌋ = ((f.num * 2 ^ 32 / (f.den * fs) : Nat) : Int) :=
  floor_of_eq_div (by push_cast; ring)

theorem durWord_toNat {fs : Nat} {t : Ratio} (h : durInRange fs t = true) :
    (durWord fs t).toNat = t.num * fs / t.den ∧ t.num * fs / t.den ≤ 2147483647 := by
  have inRange : t.num * fs / t.den ≤ 2147483647 := of_decide_eq_true h
  exact ⟨ofNat_toNat_of_le (inRange.trans (by decide)), inRange⟩

theorem floor_duration (fs : Nat) (t : Ratio) :
    ⌊((t.num : ℚ) / t.den) * fs⌋ = ((t.num * fs / t.den : Nat) : Int) :=
  floor_of_eq_div (by push_cast; ring)

/-- Settles O54: within the contract neither quotient outgrows its word. -/
theorem frequencyAndDurationAreFloors : Obligations.FrequencyAndDurationAreFloors := by
  refine fun fs q _ _ => ⟨fun h => ?_, fun h => ?_⟩
  · rw [freqWord_toNat h, floor_frequency]
    exact ⟨rfl, stepSize_le h⟩
  · obtain ⟨word, bound⟩ := durWord_toNat h
    rw [word, floor_duration]
    exact ⟨rfl, bound⟩

/-! ## The sustain level (R153) -/

theorem susWord_toNat {sf : Ratio} (h : sf.num ≤ sf.den) :
    (susWord sf).toNat = 4294967295 * sf.num / sf.den :=
  ofNat_toNat_of_le (Nat.div_le_of_le_mul (by rw [Nat.mul_comm sf.den]; exact Nat.mul_le_mul_left _ h))

theorem floor_sustain (sf : Ratio) :
    ⌊(4294967295 : ℚ) * ((sf.num : ℚ) / sf.den)⌋ = ((4294967295 * sf.num / sf.den : Nat) : Int) :=
  floor_of_eq_div (by push_cast; ring)

/-- Settles O55: a fraction up to 1 keeps the quotient in its word. -/
theorem sustainLevelIsAFloor : Obligations.SustainLevelIsAFloor := by
  refine ⟨fun sf _ h => ?_, fun d pos => ⟨?_, ?_⟩, by decide⟩
  · rw [susWord_toNat h, floor_sustain]
  · apply BitVec.eq_of_toNat_eq
    rw [susWord_toNat (Nat.zero_le d), Nat.mul_zero, Nat.zero_div, BitVec.toNat_zero]
  · apply BitVec.eq_of_toNat_eq
    rw [susWord_toNat (le_refl d), Nat.mul_div_cancel _ pos]
    rfl

/-! ## The rates (R154 to R156) -/

theorem clamp_bounds (x : Nat) : 1 ≤ clamp x 1 4294967295 ∧ clamp x 1 4294967295 ≤ 4294967295 := by
  unfold clamp; omega

theorem rateWord_of_zero (range : Nat) {fs : Nat} {t : Ratio} (h : fs * t.num = 0) :
    rateWord range fs t = 0xFFFFFFFF#32 := by
  rw [rateWord, if_pos h]; rfl

theorem rateWord_toNat (range : Nat) {fs : Nat} {t : Ratio} (h : fs * t.num ≠ 0) :
    (rateWord range fs t).toNat = clamp (range * t.den / (fs * t.num)) 1 4294967295 := by
  rw [rateWord, if_neg h]
  exact ofNat_toNat_of_le (clamp_bounds _).2

theorem floor_rate (range fs : Nat) (t : Ratio) :
    ⌊(range : ℚ) / (fs * ((t.num : ℚ) / t.den))⌋ = ((range * t.den / (fs * t.num) : Nat) : Int) :=
  floor_of_eq_div (by rw [← mul_div_assoc, div_div_eq_mul_div]; push_cast; rfl)

/-- One rate, for a positive time: the three of R154 to R156 differ only in the range. -/
theorem rateWord_eq_floor (range : Nat) {fs : Nat} {t : Ratio} (h : fs * t.num ≠ 0) :
    ((rateWord range fs t).toNat : Int) =
      min (max ⌊(range : ℚ) / (fs * ((t.num : ℚ) / t.den))⌋ 1) 4294967295 := by
  rw [rateWord_toNat range h, floor_rate, clamp]
  push_cast; rfl

/-- Settles O56: `rateWord_of_zero` for a time of zero, `rateWord_eq_floor` for any other. -/
theorem ratesAreClampedFloors : Obligations.RatesAreClampedFloors := by
  refine fun fs t sus fsPos _ => ⟨fun zero => ?_, fun pos => ?_⟩
  · have timeZero : fs * t.num = 0 := by rw [zero, Nat.mul_zero]
    exact ⟨rateWord_of_zero _ timeZero, rateWord_of_zero _ timeZero, rateWord_of_zero _ timeZero⟩
  · have timePos : fs * t.num ≠ 0 := (Nat.mul_pos fsPos pos).ne'
    exact ⟨rateWord_eq_floor _ timePos, rateWord_eq_floor _ timePos, rateWord_eq_floor _ timePos⟩

/-! ## Every derived note ends (R156, R105) -/

/-- No derived rate is 0: the lower clamp is 1, and a time of zero gives the largest rate. -/
theorem rateWord_ne_zero (range fs : Nat) (t : Ratio) : rateWord range fs t ≠ 0#32 := by
  by_cases h : fs * t.num = 0
  · rw [rateWord_of_zero range h]; decide
  · intro zero
    have number := rateWord_toNat range h
    have positive := (clamp_bounds (range * t.den / (fs * t.num))).1
    rw [zero, BitVec.toNat_zero] at number
    omega

theorem deriveNote_valid (fs : Nat) (n : NoteSpec) : (deriveNote fs n).valid :=
  ⟨rateWord_ne_zero _ _ _, .inl (rateWord_ne_zero _ _ _), .inl (rateWord_ne_zero _ _ _)⟩

/-- Settles O57: with no rate 0 the three conditions of R105 hold, and `note_ends` says the rest. -/
theorem derivedNotesEnd : Obligations.DerivedNotesEnd := fun fs n =>
  ⟨deriveNote_valid fs n, note_ends (deriveNote_valid fs n)⟩

end Sys2Proof.Machine
end

section
/-! PROOFS. The end of a buffer fill (spec/42_host_contract.md R158, R159): SWEEP, the source's reclaim pass that it
stands for, and busy(). -/

namespace Sys2Proof.Machine

/-! ## What the pool properties speak of -/

theorem State.WeakPool.congr {s t : State} (h : s.WeakPool) (voices : t.voices = s.voices) (hai : t.hai = s.hai) :
    t.WeakPool := by
  simpa [State.WeakPool, State.nVoices, State.voice, voices, hai] using h

theorem State.StrongPool.congr {s t : State} (h : s.StrongPool) (voices : t.voices = s.voices)
    (hai : t.hai = s.hai) : t.StrongPool := by
  simpa [State.StrongPool, State.WeakPool, State.nVoices, State.voice, voices, hai] using h

/-- With the strong property HAI is at most any HAI under which every voice above is DONE. -/
theorem State.StrongPool.hai_le {s t : State} (hs : s.StrongPool) (ht : t.WeakPool) (low : -1 ≤ t.hai)
    (voices : t.voices = s.voices) : s.hai ≤ t.hai := by
  obtain ⟨-, none | ⟨nonneg, inBank, active⟩⟩ := hs
  · omega
  · by_contra above
    have size : t.nVoices = s.nVoices := congrArg List.length voices
    have done := ht s.hai.toNat (by omega) (by omega)
    rw [State.voice, voices] at done
    rw [State.voice, done] at active
    cases active

theorem State.StrongPool.low {s : State} (h : s.StrongPool) : -1 ≤ s.hai := by
  obtain ⟨-, none | ⟨nonneg, -⟩⟩ := h
  all_goals omega

/-- The voices determine the HAI of the strong property. -/
theorem State.StrongPool.hai_unique {s t : State} (hs : s.StrongPool) (ht : t.StrongPool)
    (voices : t.voices = s.voices) : s.hai = t.hai :=
  le_antisymm (hs.hai_le ht.1 ht.low voices) (ht.hai_le hs.1 hs.low voices.symm)

theorem State.scanDown_congr {s t : State} (voices : t.voices = s.voices) (k : Nat) :
    t.scanDown k = s.scanDown k := by
  induction k with
  | zero => rfl
  | succ k ih => rw [State.scanDown, State.scanDown, ih, State.voice, State.voice, voices]

theorem reclaimedHai_congr {s t : State} (voices : t.voices = s.voices) (hai : t.hai = s.hai) (i : Nat) :
    reclaimedHai t i = reclaimedHai s i := by
  rw [reclaimedHai, reclaimedHai, hai, State.scanDown_congr voices]

@[simp] theorem reclaimedHai_setCmd (s : State) (w : Word) (i : Nat) :
    reclaimedHai (s.setCmd w) i = reclaimedHai s i :=
  reclaimedHai_congr (s := s) (t := s.setCmd w) rfl rfl i

@[simp] theorem reclaimedHai_observe (s : State) (o : Observation) (i : Nat) :
    reclaimedHai (s.observe o) i = reclaimedHai s i :=
  reclaimedHai_congr (s := s) (t := s.observe o) rfl rfl i

/-- RECLAIM of an active voice leaves HAI: at HAI the scan stops where it starts. -/
theorem reclaimedHai_of_active {s : State} {i : Nat} (active : (s.voice i).isDone = false) :
    reclaimedHai s i = s.hai := by
  by_cases atHai : (i : Int) = s.hai
  · rw [reclaimedHai_self atHai, State.scanDown, active, ← atHai]
    rfl
  · exact reclaimedHai_other atHai

/-! ## ISDONE and RECLAIM as the host issues them -/

theorem hostAccess_isdone {i : BitVec 8} {s : State} (inBank : i.toNat < s.nVoices) :
    ∃ t, hostAccess (issue (.isdone i)) s = .next t ∧ t.voices = s.voices ∧ t.hai = s.hai ∧
      (t.result = 1#32 ↔ (s.voice i.toNat).isDone = true) := by
  have inBankSet : i.toNat < (s.setCmd (encode (.isdone i))).nVoices := inBank
  refine ⟨_, hostAccess_issue (decode_encode _) (exec_isdone inBankSet), rfl, rfl, ?_⟩
  change (if (s.voice i.toNat).isDone then 1#32 else 0#32) = 1#32 ↔ _
  split
  · next done => exact iff_of_true rfl done
  · next active => exact iff_of_false (by decide) active

theorem hostAccess_reclaim {i : BitVec 8} {s : State} (inBank : i.toNat < s.nVoices) :
    ∃ t, hostAccess (issue (.reclaim i)) s = .next t ∧ t.voices = s.voices ∧
      t.hai = reclaimedHai s i.toNat := by
  have inBankSet : i.toNat < (s.setCmd (encode (.reclaim i))).nVoices := inBank
  exact ⟨_, hostAccess_issue (decode_encode _) (execReclaim_of_lt inBankSet), rfl, reclaimedHai_setCmd s _ _⟩

/-! ## SWEEP (R78) -/

theorem sweep_none {s : State} (h : s.status.extractLsb' 0 8 = 0xFF#8) :
    sweep s = .next (s.observe (.value s.status)) := by
  rw [sweep, sweepEvents, if_pos h]
  rfl

theorem andThen_pure {σ φ ρ : Type} (o : Host.Outcome σ φ ρ) : andThen o .next = o := by
  cases o <;> rfl

/-- A list of one access. -/
theorem runEvents_singleton (e : HostEvent) (s : State) : runEvents [e] s = hostAccess e s :=
  andThen_pure _

theorem sweep_reclaim {s : State} (h : s.status.extractLsb' 0 8 ≠ 0xFF#8) :
    sweep s = hostAccess (issue (.reclaim (s.status.extractLsb' 0 8))) (s.observe (.value s.status)) := by
  rw [sweep, sweepEvents, if_neg h]
  exact runEvents_singleton _ _

/-- SWEEP always completes. -/
theorem sweep_next (s : State) : ∃ t, sweep s = .next t := by
  by_cases noVoice : s.status.extractLsb' 0 8 = 0xFF#8
  · exact ⟨_, sweep_none noVoice⟩
  · rw [sweep_reclaim noVoice]
    exact hostWrite_next 0 _ _

/-- SWEEP restores the strong property: HAI is NONE already, or SWEEP is RECLAIM of HAI (R158). -/
theorem sweep_strongPool {s : State} (sized : s.WellSized) (pool : s.WeakPool) :
    ∃ t, sweep s = .next t ∧ t.voices = s.voices ∧ t.StrongPool := by
  obtain ⟨-, index, noIndex, -⟩ := statusAndActiveFields s sized
  rcases sized.hai_cases with noVoice | ⟨m, atHai, inBank⟩
  · exact ⟨_, sweep_none (noIndex noVoice), rfl, pool, State.haiActive_none noVoice⟩
  · have field : (s.status.extractLsb' 0 8).toNat = m := (index (by omega)).trans (by omega)
    have notNone : s.status.extractLsb' 0 8 ≠ 0xFF#8 := fun e => by
      have bank := sized.nVoices_le
      have same : 255 = m := by rw [← field, e]; rfl
      omega
    have inBankRead : (s.status.extractLsb' 0 8).toNat < (s.observe (.value s.status)).nVoices := field ▸ inBank
    obtain ⟨t, run, voices, hai⟩ := hostAccess_reclaim inBankRead
    rw [reclaimedHai_observe, field] at hai
    exact ⟨t, (sweep_reclaim notNone).trans run, voices,
      (pool.reclaim_strong atHai.symm inBank).congr voices hai⟩

/-! ## The reclaim pass (R158) -/

/-- One turn of the pass does to the pool what RECLAIM alone would: with an active voice RECLAIM has no effect. -/
theorem reclaimPass_cons {i : BitVec 8} {s : State} (is : List (BitVec 8)) (inBank : i.toNat < s.nVoices) :
    ∃ t, reclaimPass (i :: is) s = reclaimPass is t ∧ t.voices = s.voices ∧ t.hai = reclaimedHai s i.toNat := by
  obtain ⟨u, asked, voices, hai, answer⟩ := hostAccess_isdone inBank
  by_cases done : (s.voice i.toNat).isDone = true
  · have inBankAsked : i.toNat < u.nVoices := by rwa [State.nVoices, voices]
    obtain ⟨t, run, voices', hai'⟩ := hostAccess_reclaim inBankAsked
    refine ⟨t, ?_, voices'.trans voices, hai'.trans (reclaimedHai_congr voices hai _)⟩
    rw [reclaimPass, asked, andThen_next, if_pos (answer.2 done), run, andThen_next]
  · refine ⟨u, ?_, voices, hai.trans (reclaimedHai_of_active (Bool.eq_false_iff.2 done)).symm⟩
    rw [reclaimPass, asked, andThen_next, if_neg (mt answer.1 done), andThen_next]

/-- In any order, a pass that comes to HAI restores the strong property, and every pass keeps it: until the turn of
HAI nothing changes. -/
theorem reclaimPass_next {is : List (BitVec 8)} {s : State} (inBank : ∀ i ∈ is, i.toNat < s.nVoices)
    (pool : s.WeakPool) :
    ∃ t, reclaimPass is s = .next t ∧ t.voices = s.voices ∧
      (s.StrongPool ∨ (∃ i ∈ is, (i.toNat : Int) = s.hai) → t.StrongPool) := by
  induction is generalizing s with
  | nil => exact ⟨s, rfl, rfl, fun h => h.resolve_right (by simp)⟩
  | cons i is ih =>
    obtain ⟨here, later⟩ := List.forall_mem_cons.1 inBank
    obtain ⟨u, turn, voices, hai⟩ := reclaimPass_cons is here
    have size : u.nVoices = s.nVoices := congrArg List.length voices
    obtain ⟨t, run, voices', strong⟩ := ih (size ▸ later) ((pool.reclaim i.toNat).congr voices hai)
    refine ⟨t, turn.trans run, voices'.trans voices, fun h => strong ?_⟩
    by_cases atHai : (i.toNat : Int) = s.hai
    · exact .inl ((pool.reclaim_strong atHai here).congr voices hai)
    · rw [reclaimedHai_other atHai] at hai
      rcases h with already | ⟨j, member, jHai⟩
      · exact .inl (already.congr voices hai)
      · rcases List.mem_cons.1 member with rfl | inRest
        · exact absurd jHai atHai
        · exact .inr ⟨j, inRest, jHai.trans hai.symm⟩

/-- A pass over the indices up to HAI, in any order. -/
theorem reclaimPass_strongPool {is : List (BitVec 8)} {s : State} (sized : s.WellSized) (pool : s.WeakPool)
    (upToHai : ∀ i, i ∈ is ↔ i.toNat < s.visited) :
    ∃ t, reclaimPass is s = .next t ∧ t.voices = s.voices ∧ t.StrongPool := by
  have bank := sized.nVoices_le
  have inBank : ∀ i ∈ is, i.toNat < s.nVoices := fun i member => by
    have upTo := State.lt_visited_iff.1 ((upToHai i).1 member)
    obtain ⟨-, -, high⟩ := sized
    omega
  obtain ⟨t, run, voices, strong⟩ := reclaimPass_next inBank pool
  refine ⟨t, run, voices, strong ?_⟩
  rcases sized.hai_cases with noVoice | ⟨m, atHai, small⟩
  · exact .inl ⟨pool, State.haiActive_none noVoice⟩
  · have index : (BitVec.ofNat 8 m).toNat = m := by simp; omega
    exact .inr ⟨BitVec.ofNat 8 m, (upToHai _).2 (State.lt_visited_iff.2 (by omega)), by omega⟩

/-- The indices of the pass in ascending order. -/
theorem mem_indices_iff (k : Nat) (i : BitVec 8) : i ∈ (List.range k).map (BitVec.ofNat 8) ↔ i.toNat < k := by
  rw [List.mem_map]
  constructor
  · rintro ⟨j, inRange, rfl⟩
    exact (Nat.mod_le j _).trans_lt (List.mem_range.1 inRange)
  · exact fun below => ⟨i.toNat, List.mem_range.2 below, by simp⟩

/-- Settles O59: each of the three leaves the strong property, under which the voices determine HAI. -/
theorem sweepEqualsTheReclaimPass : Obligations.SweepEqualsTheReclaimPass := by
  rintro s ⟨sized, pool, -, -⟩
  have ascending := mem_indices_iff s.visited
  have descending : ∀ i, i ∈ (List.range s.visited).reverse.map (BitVec.ofNat 8) ↔ i.toNat < s.visited := by
    intro i
    rw [List.map_reverse, List.mem_reverse, ascending]
  obtain ⟨t, runT, voicesT, strongT⟩ := sweep_strongPool sized pool
  obtain ⟨u, runU, voicesU, strongU⟩ := reclaimPass_strongPool sized pool ascending
  obtain ⟨p, runP, voicesP, strongP⟩ := reclaimPass_strongPool sized pool descending
  exact ⟨t, u, p, runT, runU, runP, strongU.hai_unique strongT (voicesT.trans voicesU.symm),
    strongP.hai_unique strongT (voicesT.trans voicesP.symm), voicesT, voicesU, voicesP, strongT, strongU, strongP⟩

/-! ## busy() (R159) -/

theorem State.busy_iff {s : State} (h : s.nVoices ≤ 32) :
    s.busy = true ↔ ∃ i, i < s.nVoices ∧ (s.voice i).envelopeState ≠ .done := by
  rw [State.busy, decide_eq_true_iff]
  simp only [← State.active_getLsbD h]
  change s.active ≠ 0#32 ↔ _
  constructor
  · intro busy
    by_contra noneActive
    exact busy (BitVec.eq_of_getLsbD_eq fun i _ => by simpa using not_exists.1 noneActive i)
  · rintro ⟨i, bit⟩ idle
    simp [idle] at bit

/-- Settles O60: ACTIVE has a bit for each active voice, and MIX may end the only one without lowering HAI. -/
theorem busyIsSomeVoiceActive : Obligations.BusyIsSomeVoiceActive := by
  refine ⟨fun s => State.busy_iff, ?_⟩
  have ended := execMix_eq endingVoice
  exact ⟨_, inv_keptByPort.exec .mix _ _ endingVoice_inv ended, by decide, by decide⟩

end Sys2Proof.Machine
end

section
/-! PROOFS. One output frame and one buffer fill (spec/42_host_contract.md R157, R160): NOTE, the due notes that a
frame plays, and the queue of those it leaves. -/

namespace Sys2Proof.Machine

/-! ## NOTE (R78) -/

/-- NOTE puts the six words in the operand registers and issues ALLOC. -/
theorem runEvents_noteEvents (n : Note) (s : State) :
    runEvents (noteEvents n) s = hostAccess (issue .alloc)
      { s with freq := n.freq, dur := n.dur, atk := n.atk, dcy := n.dcy, sus := n.sus, rls := n.rls } :=
  runEvents_singleton (issue .alloc) _

/-- ALLOC ends in OK, or in FAILURE with every voice active (R122). -/
theorem hostAccess_alloc (s : State) :
    ∃ t, hostAccess (issue .alloc) s = .next t ∧
      (t.rcode = 0#32 ∨ t.rcode = 1#32 ∧ ∀ i, i < s.nVoices → (s.voice i).envelopeState ≠ .done) := by
  cases scan : (s.setCmd (encode .alloc)).firstFree with
  | some i => exact ⟨_, hostAccess_issue (decode_encode _) (exec_alloc_some scan), .inl rfl⟩
  | none =>
    have active := State.firstFree_eq_none.1 scan
    exact ⟨_, hostAccess_issue (decode_encode _) (exec_alloc_none scan),
      .inr ⟨rfl, fun i inBank => (Voice.not_isDone_iff _).1 (active i inBank)⟩⟩

/-- NOTE ends as its ALLOC does: the operand registers have no part in the scan. -/
theorem runEvents_noteEvents_next (n : Note) (s : State) :
    ∃ t, runEvents (noteEvents n) s = .next t ∧
      (t.rcode = 0#32 ∨ t.rcode = 1#32 ∧ ∀ i, i < s.nVoices → (s.voice i).envelopeState ≠ .done) := by
  rw [runEvents_noteEvents]
  exact hostAccess_alloc _

/-! ## The due notes that a frame plays -/

/-- The NOTEs of these notes, one after another, lead from one state to another, and each ends in OK. -/
inductive NotesPlayed : List Note → State → State → Prop where
  | nil (s : State) : NotesPlayed [] s s
  | cons {n : Note} {ns : List Note} {s t v : State} (note : runEvents (noteEvents n) s = .next t)
      (ok : t.rcode = 0#32) (rest : NotesPlayed ns t v) : NotesPlayed (n :: ns) s v

/-- The NOTE of this note ends in FAILURE, with every voice active. -/
structure NoteFails (n : Note) (v u : State) : Prop where
  note : runEvents (noteEvents n) v = .next u
  failure : u.rcode = 1#32
  full : ∀ i, i < v.nVoices → (v.voice i).envelopeState ≠ .done

theorem runEvents_flatMap_cons {n : Note} {s t : State} (note : runEvents (noteEvents n) s = .next t)
    (ns : List Note) : runEvents ((n :: ns).flatMap noteEvents) s = runEvents (ns.flatMap noteEvents) t := by
  rw [List.flatMap_cons, runEvents_append, note, andThen_next]

theorem NotesPlayed.run {ns : List Note} {s v : State} (h : NotesPlayed ns s v) :
    runEvents (ns.flatMap noteEvents) s = .next v := by
  induction h with
  | nil s => rfl
  | cons note _ _ ih => exact (runEvents_flatMap_cons note _).trans ih

/-- After each of the notes RCODE is OK. -/
theorem NotesPlayed.each_ok {ns : List Note} {s v : State} (h : NotesPlayed ns s v) (k : Nat) (hk : k < ns.length) :
    ∃ w, runEvents ((ns.take (k + 1)).flatMap noteEvents) s = .next w ∧ w.rcode = 0#32 := by
  induction h generalizing k with
  | nil => exact absurd hk (Nat.not_lt_zero k)
  | cons note ok _ ih =>
    rw [List.take_succ_cons, runEvents_flatMap_cons note]
    cases k with
    | zero => exact ⟨_, rfl, ok⟩
    | succ k => exact ih k (Nat.lt_of_succ_lt_succ hk)

/-- A frame goes on after the notes that it plays. -/
theorem NotesPlayed.playFrame_append {ns : List Note} {s v : State} (h : NotesPlayed ns s v) (rest : List Note) :
    playFrame (ns ++ rest) s = playFrame rest v := by
  induction h with
  | nil => rfl
  | cons note ok _ ih =>
    rw [List.cons_append, playFrame, note, andThen_next]
    exact (if_pos ok).trans ih

theorem NoteFails.playFrame_cons {n : Note} {v u : State} (h : NoteFails n v u) (later : List Note) :
    playFrame (n :: later) v = andThen (hostAccess (issue .mix) u) fun t => .next (t, n :: later) := by
  have notOk : u.rcode ≠ codeWord .ok := by rw [h.failure]; decide
  rw [playFrame, h.note, andThen_next, if_neg notOk]

/-- The due notes split into those played and those left; of those left, if any, the first fails. -/
theorem exists_notesPlayed (due : List Note) (s : State) :
    ∃ played rest v, due = played ++ rest ∧ NotesPlayed played s v ∧
      (rest = [] ∨ ∃ n later u, rest = n :: later ∧ NoteFails n v u) := by
  induction due generalizing s with
  | nil => exact ⟨[], [], s, rfl, .nil s, .inl rfl⟩
  | cons n due ih =>
    obtain ⟨t, note, ok | ⟨failure, full⟩⟩ := runEvents_noteEvents_next n s
    · obtain ⟨played, rest, v, split, notes, left⟩ := ih t
      exact ⟨n :: played, rest, v, congrArg (n :: ·) split, .cons note ok notes, left⟩
    · exact ⟨[], n :: due, s, rfl, .nil s, .inr ⟨n, due, t, rfl, note, failure, full⟩⟩

/-! ## One frame (R157) -/

/-- A frame over these due notes: `v` after the NOTEs of the notes played, `u` after that of the first note left, if
there is one, and `t` after MIX. -/
structure FramePlayed (due : List Note) (s v u t : State) (played rest : List Note) : Prop where
  frame : playFrame due s = .next (t, rest)
  split : due = played ++ rest
  notes : NotesPlayed played s v
  none_left : rest = [] → u = v
  first_left : ∀ n later, rest = n :: later → NoteFails n v u
  mix : hostAccess (issue .mix) u = .next t

theorem hostAccess_mix_next (s : State) : ∃ t, hostAccess (issue .mix) s = .next t :=
  hostWrite_next 0 (encode .mix) s

/-- Every frame completes. -/
theorem exists_framePlayed (due : List Note) (s : State) :
    ∃ v u t played rest, FramePlayed due s v u t played rest := by
  obtain ⟨played, rest, v, split, notes, noneLeft | ⟨n, later, u, left, fails⟩⟩ := exists_notesPlayed due s
  · obtain ⟨t, mix⟩ := hostAccess_mix_next v
    have frame : playFrame due s = .next (t, rest) := by
      rw [split, notes.playFrame_append, noneLeft, playFrame, mix, andThen_next]
    exact ⟨v, v, t, played, rest, frame, split, notes, fun _ => rfl, by simp [noneLeft], mix⟩
  · obtain ⟨t, mix⟩ := hostAccess_mix_next u
    have frame : playFrame due s = .next (t, rest) := by
      rw [split, notes.playFrame_append, left, fails.playFrame_cons, mix, andThen_next]
    refine ⟨v, u, t, played, rest, frame, split, notes, by simp [left], fun n' later' same => ?_, mix⟩
    obtain ⟨rfl, -⟩ := List.cons.inj (left.symm.trans same)
    exact fails

/-! ## The invariant along the host's accesses -/

theorem KeptByPort.hostAccess {P : State → Prop} (k : KeptByPort P) {e : HostEvent} {s t : State} (hs : P s)
    (h : hostAccess e s = .next t) : P t :=
  k.step (k.setInputs s (e :: s.inputs) hs) ((step_withNext s e).trans h)

theorem KeptByPort.runEvents {P : State → Prop} (k : KeptByPort P) {es : List HostEvent} {s t : State} (hs : P s)
    (h : runEvents es s = .next t) : P t := by
  induction es generalizing s with
  | nil => cases h; exact hs
  | cons e es ih =>
    obtain ⟨u, first, rest⟩ := andThen_eq_next h
    exact ih (k.hostAccess hs first) rest

theorem FramePlayed.keeps {P : State → Prop} (k : KeptByPort P) {due played rest : List Note} {s v u t : State}
    (h : FramePlayed due s v u t played rest) (hs : P s) : P t := by
  have after : P v := k.runEvents hs h.notes.run
  have before : P u := by
    cases left : rest with
    | nil => rwa [h.none_left left]
    | cons n later => exact k.runEvents after (h.first_left n later left).note
  exact k.hostAccess before h.mix

/-! ## One fill (R157) -/

theorem playFrames_cons {fresh due rest : List Note} {frames : List (List Note)} {s t : State} {f : Filled}
    (frame : playFrame (due ++ fresh) s = .next (t, rest)) (later : playFrames frames rest t = .next f) :
    playFrames (fresh :: frames) due s = .next { f with samples := t.result :: f.samples } := by
  rw [playFrames, frame, andThen_next, later, andThen_next]

/-- The frames of a fill complete, with one sample each, and leave a tail of all notes due. -/
theorem playFrames_next {P : State → Prop} (k : KeptByPort P) (frames : List (List Note)) (due : List Note)
    (s : State) :
    ∃ f played, playFrames frames due s = .next f ∧ f.samples.length = frames.length ∧
      due ++ frames.flatten = played ++ f.due ∧ (P s → P f.state) := by
  induction frames generalizing due s with
  | nil => exact ⟨⟨s, due, []⟩, [], rfl, rfl, by simp, id⟩
  | cons fresh frames ih =>
    obtain ⟨v, u, t, now, rest, framePlayed⟩ := exists_framePlayed (due ++ fresh) s
    obtain ⟨f, after, later, size, queue, kept⟩ := ih rest t
    refine ⟨_, now ++ after, playFrames_cons framePlayed.frame later, congrArg (· + 1) size, ?_,
      fun hs => kept (framePlayed.keeps k hs)⟩
    calc due ++ (fresh :: frames).flatten
      _ = (due ++ fresh) ++ frames.flatten := by rw [List.flatten_cons, List.append_assoc]
      _ = now ++ (rest ++ frames.flatten) := by rw [framePlayed.split, List.append_assoc]
      _ = (now ++ after) ++ f.due := by rw [queue, List.append_assoc]

theorem playFill_eq {frames : List (List Note)} {due : List Note} {s t : State} {f : Filled}
    (fill : playFrames frames due s = .next f) (swept : sweep f.state = .next t) :
    playFill frames due s = .next { f with state := t } := by
  rw [playFill, fill, andThen_next, swept, andThen_next]

/-- Settles O58: `exists_framePlayed` for a frame, `playFrames_next` and SWEEP for a fill. -/
theorem frameKeepsUnplayedNotesInOrder : Obligations.FrameKeepsUnplayedNotesInOrder := by
  refine ⟨runEvents_noteEvents, fun due s => ?_, fun _ _ _ _ _ _ _ => playFrames_cons, fun frames due s => ?_⟩
  · obtain ⟨v, u, t, played, rest, frame, split, notes, noneLeft, firstLeft, mix⟩ := exists_framePlayed due s
    refine ⟨v, u, t, played, rest, frame, split, notes.run, notes.each_ok, noneLeft, fun n later left => ?_, mix⟩
    obtain ⟨note, failure, full⟩ := firstLeft n later left
    exact ⟨note, failure, full⟩
  · obtain ⟨f, played, fill, size, queue, kept⟩ := playFrames_next inv_keptByPort frames due s
    obtain ⟨t, swept⟩ := sweep_next f.state
    refine ⟨f, t, played, fill, swept, playFill_eq fill swept, size, queue, fun inv => ?_⟩
    obtain ⟨sized, pool, -, -⟩ := kept inv
    obtain ⟨t', swept', -, strong⟩ := sweep_strongPool sized pool
    cases swept.symm.trans swept'
    exact strong

end Sys2Proof.Machine
end

section
/-! PROOFS. Errors (spec/60_exceptions.md R170 to R175): which response code a word gets, what a response other than OK
leaves unchanged, and which accesses have no next state. -/

namespace Sys2Proof.Machine

/-! ## The response code of a word (R171, R174) -/

theorem wellFormed_eq_false_iff {n : Nat} {i : Instr} :
    i.wellFormed n = false ↔ ∃ idx, i.index? = some idx ∧ n ≤ idx.toNat := by
  unfold Instr.wellFormed
  cases i.index? <;> simp

theorem index?_eq_some_iff {i : Instr} {idx : BitVec 8} :
    i.index? = some idx ↔ i = .rel idx ∨ i = .reclaim idx ∨ i = .isdone idx := by
  cases i <;> simp [Instr.index?]

/-- The code that a command gets in `s`: the index check comes before ALLOC's own outcome (R174). -/
def commandCode (i : Instr) (s : State) : ResponseCode :=
  if i.wellFormed s.nVoices = false then .errIndex
  else if i = .alloc ∧ s.firstFree = none then .failure
  else .ok

theorem commandCode_eq_errIndex_iff {i : Instr} {s : State} :
    commandCode i s = .errIndex ↔ ∃ idx, i.index? = some idx ∧ s.nVoices ≤ idx.toNat := by
  rw [← wellFormed_eq_false_iff, commandCode]
  split_ifs with bad <;> simp [bad]

/-- ALLOC has no index, so the index check never hides its FAILURE. -/
theorem commandCode_eq_failure_iff {i : Instr} {s : State} :
    commandCode i s = .failure ↔ i = .alloc ∧ s.firstFree = none := by
  rw [commandCode]
  split_ifs with bad full
  · have notAlloc : i ≠ .alloc := by rintro rfl; cases bad
    simp [notAlloc]
  · simp [full]
  · simp [full]

theorem commandCode_ne_errOpcode (i : Instr) (s : State) : commandCode i s ≠ .errOpcode := by
  rw [commandCode]
  split_ifs <;> decide

theorem commandCode_indexed {i : Instr} {idx : BitVec 8} {s : State} (index : i.index? = some idx)
    (inBank : idx.toNat < s.nVoices) : commandCode i s = .ok := by
  have notAlloc : i ≠ .alloc := by rintro rfl; cases index
  have wf : i.wellFormed s.nVoices = true := by simp [Instr.wellFormed, index, inBank]
  rw [commandCode, if_neg (by simp [wf]), if_neg (by simp [notAlloc])]

/-- A command answers with its code: OK, or that code and nothing else. -/
theorem exec_commandCode {i : Instr} {s t : State} (e : exec i s = .next t) :
    (commandCode i s = .ok ∧ t.rcode = codeWord .ok) ∨ t = s.fail (commandCode i s) := by
  rcases exec_eq_next e with ⟨k, rfl, free, rfl⟩ | ⟨rfl, full, rfl⟩ | ⟨idx, rfl, inBank, rfl⟩ |
    ⟨idx, rfl, inBank, rfl⟩ | ⟨rfl, rfl⟩ | ⟨idx, rfl, inBank, rfl⟩ | ⟨idx, index, out, rfl⟩
  · exact .inl ⟨by simp [commandCode, Instr.wellFormed, Instr.index?, free], rfl⟩
  · rw [commandCode_eq_failure_iff.2 ⟨rfl, full⟩]
    exact .inr rfl
  · exact .inl ⟨commandCode_indexed rfl inBank, rfl⟩
  · exact .inl ⟨commandCode_indexed rfl inBank, rfl⟩
  · exact .inl ⟨rfl, rfl⟩
  · exact .inl ⟨commandCode_indexed rfl inBank, rfl⟩
  · rw [commandCode_eq_errIndex_iff.2 ⟨idx, index, out⟩]
    exact .inr rfl

/-- The code that the write of a word to CMD gets in `s`: the checks on the word come before the command (R174). -/
def wordCode (w : Word) (s : State) : ResponseCode :=
  match decode w with
  | .illegal _ => .errOpcode
  | .instr i => commandCode i s

theorem wordCode_illegal {w : Word} {why : Reject} (d : decode w = .illegal why) (s : State) :
    wordCode w s = .errOpcode := by
  simp [wordCode, d]

theorem wordCode_instr {w : Word} {i : Instr} (d : decode w = .instr i) (s : State) :
    wordCode w s = commandCode i s := by
  simp [wordCode, d]

/-- A command's code, which is never ERR_OPCODE, is the word's code exactly when the word decodes to such a command. -/
theorem wordCode_eq_iff {w : Word} {s : State} {c : ResponseCode} (notOpcode : c ≠ .errOpcode) :
    wordCode w s = c ↔ ∃ i, decode w = .instr i ∧ commandCode i s = c := by
  cases d : decode w with
  | illegal why => simp [wordCode_illegal d, notOpcode.symm]
  | instr i => simp [wordCode_instr d]

theorem wordCode_eq_failure_iff {w : Word} {s : State} :
    wordCode w s = .failure ↔
      decode w = .instr .alloc ∧ ∀ j, j < s.nVoices → (s.voice j).envelopeState ≠ .done := by
  simp [wordCode_eq_iff, commandCode_eq_failure_iff, State.firstFree_eq_none]

theorem wordCode_eq_errIndex_iff {w : Word} {s : State} :
    wordCode w s = .errIndex ↔ ∃ idx : BitVec 8, s.nVoices ≤ idx.toNat ∧
      (decode w = .instr (.rel idx) ∨ decode w = .instr (.reclaim idx) ∨ decode w = .instr (.isdone idx)) := by
  rw [wordCode_eq_iff (by decide)]
  constructor
  · rintro ⟨i, d, code⟩
    obtain ⟨idx, index, out⟩ := commandCode_eq_errIndex_iff.1 code
    refine ⟨idx, out, ?_⟩
    rcases index?_eq_some_iff.1 index with rfl | rfl | rfl
    · exact .inl d
    · exact .inr (.inl d)
    · exact .inr (.inr d)
  · rintro ⟨idx, out, d | d | d⟩
    all_goals exact ⟨_, d, commandCode_eq_errIndex_iff.2 ⟨idx, rfl, out⟩⟩

theorem wordCode_eq_errOpcode_iff {w : Word} {s : State} :
    wordCode w s = .errOpcode ↔ ∃ why, decode w = .illegal why := by
  cases d : decode w with
  | illegal why => simp [wordCode_illegal d]
  | instr i => simp [wordCode_instr d, commandCode_ne_errOpcode]

/-- A write of CMD answers with the word's code: OK, or the word, that code and nothing else. -/
theorem regWrite_wordCode {w : Word} {s t : State} (h : regWrite 0 w s = .next t) :
    (wordCode w s = .ok ∧ t.rcode = codeWord .ok) ∨ t = (s.setCmd w).fail (wordCode w s) := by
  rcases regWrite_eq_next h with ⟨-, ⟨why, d⟩, rfl⟩ | ⟨i, -, d, e⟩ | ⟨notZero, -⟩
  · rw [wordCode_illegal d]
    exact .inr rfl
  · rw [wordCode_instr d]
    exact exec_commandCode e
  · exact absurd rfl notZero

theorem regWrite_rcode {w : Word} {s t : State} (h : regWrite 0 w s = .next t) : t.rcode = codeWord (wordCode w s) := by
  rcases regWrite_wordCode h with ⟨ok, code⟩ | rfl
  · rw [ok, code]
  · rfl

theorem codeWord_inj {c d : ResponseCode} : codeWord c = codeWord d ↔ c = d := by
  cases c <;> cases d <;> decide

/-- Settles O8: RCODE is the word's code, and each code has its one cause. -/
theorem responseCodeCauses : Obligations.ResponseCodeCauses := by
  intro w s t h
  have code : ∀ c, t.rcode = codeWord c ↔ wordCode w s = c := fun c => by rw [regWrite_rcode h, codeWord_inj]
  have legal : t.rcode.toNat ≤ 3 := regWrite_rcode h ▸ codeWord_toNat_le _
  exact ⟨word_cases_of_le_three legal, (code .failure).trans wordCode_eq_failure_iff,
    (code .errIndex).trans wordCode_eq_errIndex_iff, (code .errOpcode).trans wordCode_eq_errOpcode_iff⟩

/-! ## A response other than OK (R172, R175) -/

/-- Settles O9: a write of CMD that does not end with OK leaves `State.fail` of the state with CMD written. -/
theorem nonOkResponseRecordsOnly : Obligations.NonOkResponseRecordsOnly := by
  intro w s t h notOk
  rcases regWrite_wordCode h with ⟨-, ok⟩ | rfl
  · exact absurd ok notOk
  · rfl

/-! ## Which steps stop (R54, R170, R183) -/

/-- Settles O44: the host has no access to make, and `step_idle` says what the block does then. -/
theorem stepWaitsForTheHost : Obligations.StepWaitsForTheHost := fun _ => step_idle

/-- The access is made through the bus, at this offset and with this number of bytes. -/
def IsBusAccess (offset width : Nat) (e : HostEvent) : Prop :=
  e = .busRead offset width ∨ ∃ bytes : List Byte, bytes.length = width ∧ e = .busWrite offset bytes

theorem IsBusAccess.refused {offset width : Nat} {e : HostEvent} (bus : IsBusAccess offset width e)
    (undefined : width ≠ 4 ∨ offset % 4 ≠ 0) (s : State) :
    hostAccess e s = .refused (.undefinedAccess offset width) := by
  obtain ⟨-, -, read, write⟩ := busAccessesAreWholeRegisters s
  obtain rfl | ⟨bytes, rfl, rfl⟩ := bus
  · exact read offset width undefined
  · exact write offset bytes undefined

/-- Every access answers a next state, but for the bus accesses that are none to a whole register (R54). -/
theorem hostAccess_next {e : HostEvent}
    (whole : ∀ {offset width}, IsBusAccess offset width e → wholeRegister offset width = true) (s : State) :
    ∃ t, hostAccess e s = .next t := by
  cases e with
  | read n => exact ⟨_, rfl⟩
  | write n w => exact hostWrite_next n w s
  | busRead offset width => exact ⟨_, if_pos (whole (.inl rfl))⟩
  | busWrite offset bytes =>
    rw [hostAccess, if_pos (whole (.inr ⟨bytes, rfl, rfl⟩))]
    exact hostWrite_next _ _ s
  | powerOnReset => exact ⟨_, rfl⟩

theorem step_undefined {offset width : Nat} {e : HostEvent} {rest : List HostEvent} {s : State}
    (h : s.inputs = e :: rest) (bus : IsBusAccess offset width e) (undefined : width ≠ 4 ∨ offset % 4 ≠ 0) :
    step s = .refused (.undefinedAccess offset width) := by
  rw [step_event h, bus.refused undefined]

/-- Settles O45: with no access to serve the step waits (`step_idle`), an undefined access is refused
(`step_undefined`), and any other is served (`hostAccess_next`). -/
theorem onlyUndefinedAccessesStop : Obligations.OnlyUndefinedAccessesStop := by
  refine fun s => ⟨?_, fun offset width rest h => step_undefined h (.inl rfl),
    fun offset bytes rest h => step_undefined h (.inr ⟨bytes, rfl, rfl⟩)⟩
  cases h : s.inputs with
  | nil => exact .inl ⟨s, step_idle h⟩
  | cons e rest =>
    by_cases stops : ∃ offset width, IsBusAccess offset width e ∧ (width ≠ 4 ∨ offset % 4 ≠ 0)
    · obtain ⟨offset, width, bus, undefined⟩ := stops
      refine .inr ⟨offset, width, rest, ?_, undefined, step_undefined h bus undefined⟩
      obtain rfl | ⟨bytes, size, rfl⟩ := bus
      · exact .inl rfl
      · exact .inr ⟨bytes, size, rfl⟩
    · have whole : ∀ {offset width}, IsBusAccess offset width e → wholeRegister offset width = true :=
        fun bus => (wholeRegister_iff _ _).2 <| by_contra fun partly =>
          stops ⟨_, _, bus, Decidable.not_and_iff_or_not.1 partly⟩
      obtain ⟨t, served⟩ := hostAccess_next whole (s.setInputs rest)
      exact .inl ⟨t, (step_event h).trans served⟩

end Sys2Proof.Machine
end

section
/-! PROOFS. Power-on reset and the hazard of a zero rate (spec/70_reset_and_hazards.md R190, R197). -/

namespace Sys2Proof.Machine

/-! ## Power-on reset (R190) -/

theorem hostAccess_powerOnReset (s : State) : hostAccess .powerOnReset s = .next s.powerCycle := rfl

/-- Settles O36: the step serves the reset, which is State.powerCycle. -/
theorem powerOnResetRestoresResetState : Obligations.PowerOnResetRestoresResetState := by
  intro s
  rw [step_withNext, hostAccess_powerOnReset, State.powerCycle]

/-! ## Zero rates in RISING and FALLING (R197) -/

theorem note_rising_of_attack_zero {n : Note} (attack : n.atk = 0#32) (k : Nat) :
    ((Voice.reset n).after k).At .rising 0 := by
  simpa [attack] using note_rising n (k := k) (by simp [attack])

/-- A released voice at level 0 ends at its next sample, whatever its release rate. -/
theorem Voice.At.release_advance_done {v : Voice} {e : EnvelopeState} (h : v.At e 0) :
    v.release.advance.At .done 0 :=
  have released : v.release.At .released 0 := ⟨h.1, rfl⟩
  released.advance_released_reached (Nat.zero_le _)

theorem Voice.At.after_falling_of_decay_zero {v : Voice} {l : Nat} (h : v.At .falling l) (decay : v.decayRate = 0#32)
    (above : v.sustainLevel.toNat < l) (k : Nat) : (v.after k).At .falling l := by
  simpa [decay] using h.after_falling (j := k) (.inr (by simpa [decay] using above))

theorem Voice.At.release_ends {v : Voice} {e : EnvelopeState} {level : Word} (h : v.At e level.toNat)
    (rate : v.releaseRate ≠ 0#32) : (v.release.after (releaseSamples level v.releaseRate)).At .done 0 :=
  have released : v.release.At .released level.toNat := ⟨h.1, rfl⟩
  released.released_ends (releaseSamples_firstCover (.inl rate))

theorem toNat_lt_of_ne_full {w : Word} (h : w ≠ 0xFFFFFFFF#32) : w.toNat < 4294967295 := by
  bv_omega

/-! ## The zero rate in RELEASED (R197) -/

/-- What a command can do to a voice that is not DONE: nothing, a release or a sample. ALLOC takes DONE voices only. -/
theorem exec_voice_of_active {i : Instr} {s t : State} {j : Nat} (e : exec i s = .next t)
    (active : (s.voice j).envelopeState ≠ .done) :
    t.voice j = s.voice j ∨ t.voice j = (s.voice j).release ∨ t.voice j = (s.voice j).advance := by
  rcases exec_eq_next e with ⟨k, -, free, rfl⟩ | ⟨-, -, rfl⟩ | ⟨idx, -, inBank, rfl⟩ | ⟨idx, -, -, rfl⟩ |
    ⟨-, rfl⟩ | ⟨idx, -, -, rfl⟩ | ⟨idx, -, -, rfl⟩
  · refine .inl (s.allocate_voice_ne ?_)
    rintro rfl
    obtain ⟨-, done, -⟩ := State.firstFree_eq_some.1 free
    exact active ((Voice.isDone_iff _).1 done)
  · exact .inl rfl
  · by_cases same : j = idx.toNat
    · subst same
      exact .inr (.inl (State.setVoice_voice_self _ inBank))
    · exact .inl (State.setVoice_voice_ne _ same)
  · exact .inl rfl
  · rw [State.respond_voice, State.advanceVisited_voice]
    split
    · exact .inr (.inr rfl)
    · exact .inl rfl
  · exact .inl rfl
  · exact .inl rfl

/-- A voice that no command can end: RELEASED at a positive level `l`, with release rate 0. -/
structure Voice.Leaked (v : Voice) (l : Nat) : Prop where
  at_released : v.At .released l
  rate : v.releaseRate = 0#32
  audible : 0 < l

theorem Voice.Leaked.release {v : Voice} {l : Nat} (h : v.Leaked l) : v.release.Leaked l where
  at_released := ⟨h.at_released.1, rfl⟩
  rate := h.rate
  audible := h.audible

theorem Voice.Leaked.advance {v : Voice} {l : Nat} (h : v.Leaked l) : v.advance.Leaked l where
  at_released := by simpa [h.rate] using h.at_released.advance_released (by simpa [h.rate] using h.audible)
  rate := v.advance_releaseRate.trans h.rate
  audible := h.audible

theorem exec_keeps_leaked {i : Instr} {s t : State} {j l : Nat} (e : exec i s = .next t)
    (h : (s.voice j).Leaked l) : (t.voice j).Leaked l := by
  rcases exec_voice_of_active e (h.at_released.active (by decide)) with same | released | advanced
  · exact same ▸ h
  · exact released ▸ h.release
  · exact advanced ▸ h.advance

/-- Settles O33: an attack from 0 by 0 stays at 0, a fall by 0 stays above the sustain level, and a leaked voice stays
leaked (`exec_keeps_leaked`). -/
theorem zeroRatesNeverEnd : Obligations.ZeroRatesNeverEnd := by
  refine ⟨fun n attack k => ?_, fun v falling full decay notFull k => ?_, fun i s t j e released rate audible => ?_⟩
  · have rising := note_rising_of_attack_zero attack k
    exact ⟨rising.2, rising.level_eq (w := 0#32), rising.release_advance_done.2⟩
  · have start : v.At .falling (0xFFFFFFFF#32 : Word).toNat := ⟨congrArg BitVec.toNat full, falling⟩
    have held := start.after_falling_of_decay_zero decay (toNat_lt_of_ne_full notFull) k
    refine ⟨held.2, held.level_eq, fun rate => ?_⟩
    have ended := held.release_ends (by rwa [Voice.after_releaseRate])
    rw [Voice.after_releaseRate] at ended
    exact ended.2
  · have leaked : (s.voice j).Leaked (s.voice j).level.toNat :=
      ⟨⟨rfl, released⟩, rate, BitVec.toNat_pos_of_ne_zero audible⟩
    have kept := exec_keeps_leaked e leaked
    exact ⟨kept.at_released.2, kept.rate, kept.at_released.level_eq⟩

end Sys2Proof.Machine
end
